-- ==== Sys2Proof/Word.lean ====
section
/-! DEFINITION. The widths of `sha256_core` (rule R9): words, bytes and UTF-16 code units. Every value is
unsigned (rule R15); arithmetic on words wraps (rule R10), which is what `BitVec` addition does. -/

namespace Sys2Proof

/-- A word: an unsigned 32-bit value (rule R9). -/
abbrev Word := BitVec 32

/-- A byte of the message buffer or of the hex buffer. -/
abbrev Byte := BitVec 8

/-- A UTF-16 code unit (rule R9, rule R20). -/
abbrev CodeUnit := BitVec 16

end Sys2Proof
end

