-- ==== Sys2Proof/Syntax.lean ====
section
/-! DEFINITION. The instructions of `sha256_core`: one constructor per row of `spec/opcode_table.json`, that is the
host commands of rule R115 (RDREG split by selector, rule R121) and the sequencer's micro-operations of rule R120;
and the two code formats an instruction is written in. -/

namespace Sys2Proof

/-- The instructions. The operands carry exactly the width of their field (rule R111, rule R112). -/
inductive Instr where
  /-- START (rule R282). -/
  | start
  /-- PUSH u (rule R283, rule R284). -/
  | push (u : CodeUnit)
  /-- RUN (rule R285). -/
  | run
  /-- RDWORD k (rule R286). -/
  | rdword (k : BitVec 3)
  /-- RDCHAR j (rule R287). -/
  | rdchar (j : BitVec 6)
  /-- RDREG 0 (rule R288). -/
  | rdregStatus
  /-- RDREG 1 (rule R289). -/
  | rdregCuCount
  /-- RDREG 2 (rule R290). -/
  | rdregErrpos
  /-- RDREG 3 (rule R291). -/
  | rdregByteLen
  /-- U_ENC, PHASE = 1 (rule R151). -/
  | uEnc
  /-- U_PAD, PHASE = 2 (rule R181). -/
  | uPad
  /-- U_SCHED, PHASE = 3 (rule R216 to rule R218). -/
  | uSched
  /-- U_COPY, PHASE = 4 (rule R219). -/
  | uCopy
  /-- U_ROUND, PHASE = 5 (rule R220 to rule R222). -/
  | uRound
  /-- U_FOLD, PHASE = 6 (rule R223, rule R224). -/
  | uFold
  /-- U_FMT, PHASE = 7 (rule R261). -/
  | uFmt
deriving DecidableEq, Repr

/-- The two formats: a host command is one 32-bit word (format CMD, rule R110); a micro-operation is a value of the
4-bit PHASE register (format PHASE, rule R120). -/
inductive Code where
  | command (w : Word)
  | phase (p : BitVec 4)
deriving DecidableEq, Repr

/-- Which agent issues the instruction (rule R13): the host for a command, the sequencer for a micro-operation. -/
def Instr.isCommand : Instr → Bool
  | .start | .push _ | .run | .rdword _ | .rdchar _
  | .rdregStatus | .rdregCuCount | .rdregErrpos | .rdregByteLen => true
  | .uEnc | .uPad | .uSched | .uCopy | .uRound | .uFold | .uFmt => false

end Sys2Proof
end

