-- ==== Sys2Proof/WellFormed.lean ====
section
/-! DEFINITION. Which codes spell an instruction, check by check, written with the masks of rule R115 and rule R116
(the decoder of `Decode.lean` is written from rule R119 instead, with bit slices). -/

namespace Sys2Proof

/-- OPC is 1 to 6 (rule R116, first condition). -/
def opcAssigned (w : Word) : Bool := decide (0x10000000 ≤ w.toNat) && decide (w.toNat < 0x70000000)

/-- RSV, bits 27 to 16, is zero (rule R116, second condition). -/
def rsvZero (w : Word) : Bool := w &&& 0x0FFF0000#32 == 0#32

/-- The ARG bits that rule R111 makes must-be-zero for the word's opcode; PUSH has none, and a word without an
assigned opcode has no ARG rule. -/
def mbzMask (w : Word) : Word :=
  let opc := w &&& 0xF0000000#32
  if opc = 0x10000000#32 then 0x0000FFFF#32
  else if opc = 0x30000000#32 then 0x0000FFFF#32
  else if opc = 0x40000000#32 then 0x0000FFF8#32
  else if opc = 0x50000000#32 then 0x0000FFC0#32
  else if opc = 0x60000000#32 then 0x0000FFFC#32
  else 0#32

/-- No must-be-zero bit of ARG is set (rule R116, third condition). -/
def mbzZero (w : Word) : Bool := w &&& mbzMask w == 0#32

/-- PHASE 1 to 7 select a micro-operation; 0 is P_IDLE and 8 to 15 are never held (rule R120). -/
def phaseAssigned (p : BitVec 4) : Bool := decide (1 ≤ p.toNat) && decide (p.toNat ≤ 7)

/-- A code spells an instruction. -/
def Code.wellFormed : Code → Bool
  | .command w => opcAssigned w && rsvZero w && mbzZero w
  | .phase p => phaseAssigned p

end Sys2Proof
end

