-- ==== Sys2Proof/Decode.lean ====
section
/-! DEFINITION. The decoder of rule R119 (and of the PHASE map, rule R120), total on every code, rejecting by name;
then the encoder, from the encoding tables of rule R110, rule R115, rule R120 and rule R121. -/

namespace Sys2Proof

/-- Why a code spells no instruction. -/
inductive DecodeError where
  /-- RSV is not zero (rule R116). -/
  | reservedNonzero
  /-- A must-be-zero bit of ARG is set (rule R116). -/
  | mbzNonzero
  /-- OPC is 0 or 7 to 15 (rule R116). -/
  | opcodeUnassigned
  /-- PHASE 0, P_IDLE: no micro-operation (rule R120). -/
  | phaseIdle
  /-- PHASE 8 to 15 (rule R55, rule R120). -/
  | phaseNeverHeld
deriving DecidableEq, Repr

/-- OPC, bits 31 to 28 (rule R110). -/
def opcField (w : Word) : BitVec 4 := w.extractLsb' 28 4
/-- RSV, bits 27 to 16 (rule R110). -/
def rsvField (w : Word) : BitVec 12 := w.extractLsb' 16 12
/-- ARG, bits 15 to 0 (rule R110). -/
def argField (w : Word) : BitVec 16 := w.extractLsb' 0 16

/-- The selector map of RDREG (rule R121). -/
def rdregOf (sel : BitVec 2) : Instr :=
  if sel = 0#2 then .rdregStatus
  else if sel = 1#2 then .rdregCuCount
  else if sel = 2#2 then .rdregErrpos
  else .rdregByteLen

/-- The command decoder (rule R119), in the rule's order of checks. -/
def decodeCommand (w : Word) : Except DecodeError Instr :=
  if rsvField w ≠ 0#12 then .error .reservedNonzero
  else if opcField w = 0x1#4 then
    if argField w = 0#16 then .ok .start else .error .mbzNonzero
  else if opcField w = 0x2#4 then .ok (.push (argField w))
  else if opcField w = 0x3#4 then
    if argField w = 0#16 then .ok .run else .error .mbzNonzero
  else if opcField w = 0x4#4 then
    if w.extractLsb' 3 13 = 0#13 then .ok (.rdword (w.extractLsb' 0 3)) else .error .mbzNonzero
  else if opcField w = 0x5#4 then
    if w.extractLsb' 6 10 = 0#10 then .ok (.rdchar (w.extractLsb' 0 6)) else .error .mbzNonzero
  else if opcField w = 0x6#4 then
    if w.extractLsb' 2 14 = 0#14 then .ok (rdregOf (w.extractLsb' 0 2)) else .error .mbzNonzero
  else .error .opcodeUnassigned

/-- The micro-operation that PHASE selects (rule R55, rule R120). -/
def decodePhase (p : BitVec 4) : Except DecodeError Instr :=
  if p = 0#4 then .error .phaseIdle
  else if p = 1#4 then .ok .uEnc
  else if p = 2#4 then .ok .uPad
  else if p = 3#4 then .ok .uSched
  else if p = 4#4 then .ok .uCopy
  else if p = 5#4 then .ok .uRound
  else if p = 6#4 then .ok .uFold
  else if p = 7#4 then .ok .uFmt
  else .error .phaseNeverHeld

/-- The decoder of either format. -/
def decode : Code → Except DecodeError Instr
  | .command w => decodeCommand w
  | .phase p => decodePhase p

/-- A command word from its three fields, RSV zero (rule R110). -/
def commandWord (opc : BitVec 4) (arg : BitVec 16) : Word := opc ++ 0#12 ++ arg

/-- The encoder (rule R115, rule R120, rule R121). -/
def encode : Instr → Code
  | .start => .command (commandWord 0x1#4 0#16)
  | .push u => .command (commandWord 0x2#4 u)
  | .run => .command (commandWord 0x3#4 0#16)
  | .rdword k => .command (commandWord 0x4#4 (k.setWidth 16))
  | .rdchar j => .command (commandWord 0x5#4 (j.setWidth 16))
  | .rdregStatus => .command (commandWord 0x6#4 0#16)
  | .rdregCuCount => .command (commandWord 0x6#4 1#16)
  | .rdregErrpos => .command (commandWord 0x6#4 2#16)
  | .rdregByteLen => .command (commandWord 0x6#4 3#16)
  | .uEnc => .phase 1#4
  | .uPad => .phase 2#4
  | .uSched => .phase 3#4
  | .uCopy => .phase 4#4
  | .uRound => .phase 5#4
  | .uFold => .phase 6#4
  | .uFmt => .phase 7#4

/-- The code that a row of `spec/opcode_table.json` gives with `nbits` bits `w`: a row of format CMD has 32 bits, a
row of format PHASE has 4, one byte in whole bytes. A number that does not fit the format is no code. -/
def tableCode (nbits w : Nat) : Option Code :=
  if nbits < 32 then
    if w < 16 then some (.phase (BitVec.ofNat 4 w)) else none
  else
    if w < 2 ^ 32 then some (.command (BitVec.ofNat 32 w)) else none

/-- What the decoder reads from a table row's word. -/
def decodeTableWord (nbits w : Nat) : Option Instr :=
  match tableCode nbits w with
  | none => none
  | some c =>
    match decode c with
    | .ok i => some i
    | .error _ => none

end Sys2Proof
end

