-- ==== Sys2Proof/Config.lean ====
section
/-! DEFINITION. What an implementation of `sha256_core` fixes: the one named parameter `MAX_CU` (rule R11, OPEN),
and the capacity of the message buffer that follows from it (rule R81). -/

namespace Sys2Proof

/-- The parameters of one instance. The spec leaves `MAX_CU` open; `State` carries the parameters unchanged
(log entry 2), so that a statement about every state is a statement about every `MAX_CU`. -/
structure Config where
  /-- The most code units one hash call may push (rule R11). -/
  maxCu : Nat
deriving DecidableEq, Repr

/-- The legal range of `MAX_CU`: `1 <= MAX_CU <= 2^30` (rule R11). -/
abbrev Config.Legal (c : Config) : Prop := 1 ≤ c.maxCu ∧ c.maxCu ≤ 2 ^ 30

/-- `PMAX = 64 * ceil((3 * MAX_CU + 9) / 64)`, the capacity of `MSG` in bytes (rule R81). -/
def Config.pmax (c : Config) : Nat := 64 * ((3 * c.maxCu + 9 + 63) / 64)

end Sys2Proof
end

