-- ==== Sys2Proof/Machine/State.lean ====
section
/-! DEFINITION. The state of one `sha256_core` instance (rule R30) as plain data, the three fields the model adds
(the parameters, the moves still to come, the responses given), the reasons a step can stop, and the state after
reset (rule R60). -/

namespace Sys2Proof.Machine

/-- STATE (rule R47). The codes 5 to 7 are never held (rule R46), so they have no constructor. -/
inductive StateCode where
  | idle | load | busy | done | error
deriving DecidableEq, Repr

/-- ERR (rule R48). The codes 3 to 15 are never held (rule R46), so they have no constructor. -/
inductive ErrCode where
  | none | malformed | overflow
deriving DecidableEq, Repr

/-- RESP_CODE (rule R114). The values 4 to 15 are never returned. -/
inductive RespCode where
  | ok | illegal | badState | overflow
deriving DecidableEq, Repr

/-- A response `(RESP_CODE, RESP_DATA)` (rule R113). -/
structure Response where
  code : RespCode
  data : Word
deriving DecidableEq, Repr

/-- The hash state `HS[0..7]` (rule R31), under the source's names. -/
structure HashWords where
  h0 : Word
  h1 : Word
  h2 : Word
  h3 : Word
  h4 : Word
  h5 : Word
  h6 : Word
  h7 : Word
deriving DecidableEq, Repr

/-- The working variables `a..h` (rule R32). -/
structure WorkVars where
  a : Word
  b : Word
  c : Word
  d : Word
  e : Word
  f : Word
  g : Word
  h : Word
deriving DecidableEq, Repr

/-- An internal index space (rule R80): a sparse map from index to element, held as a list of (index, element) pairs
with strictly rising indices (`Space.wf`, in `Ops.lean`). An index that is not listed holds no value: it is absent
(rule R60), and reading it is a fault (rule R61). -/
abbrev Space (α : Type) := List (Nat × α)

/-- A byte buffer: the index space of MSG and of HEX. Its cells are the host's `Host.Cell`. -/
abbrev Memory := Space (BitVec 8)

/-- One move of an agent (rule R13), the scheduler argument of rule R54, rule R89 and entry U15 of
`93_implementation_defined.md`. -/
inductive Move where
  /-- The host issues a command word (rule R280). -/
  | command (w : Word)
  /-- The host asserts reset (rule R380). -/
  | reset
  /-- The host is at the top of its POLL loop (rule R123): it issues RDREG STATUS, and goes round again while the
  answer is BUSY. -/
  | poll
  /-- The sequencer takes a step (rule R54). -/
  | sequencer
deriving DecidableEq, Repr

/-- The state. The first three groups are rule R30's tuple; the last group is the model's own. -/
structure State where
  /-- `HS[0..7]` (rule R31); `none` is rule R60's "the state holds no value". START writes all eight at once and
  U_FOLD all eight at once, so the eight are present or absent together. -/
  hs : Option HashWords
  /-- `a..h` (rule R32), absent until the first U_COPY (rule R60). -/
  vars : Option WorkVars
  /-- `W[0..63]` (rule R33). -/
  w : Space Word
  /-- `CU[0..MAX_CU-1]` (rule R36). -/
  cu : Space CodeUnit
  /-- The bytes of `MSG` (rule R37). -/
  msg : Memory
  /-- `len(MSG)` (rule R37). -/
  msgLen : Nat
  /-- `HEX[0..63]` (rule R38). -/
  hex : Memory
  /-- STATE (rule R47). -/
  state : StateCode
  /-- ERR (rule R48). -/
  err : ErrCode
  /-- CU_COUNT (rule R49). -/
  cuCount : Word
  /-- ERRPOS (rule R50). -/
  errPos : Word
  /-- BYTE_LEN (rule R51). -/
  byteLen : Word
  /-- PHASE (rule R55): a 4-bit register. -/
  phase : BitVec 4
  /-- CI, the encoder cursor (rule R56). -/
  ci : Nat
  /-- T, the schedule and round index, 0 to 63 (rule R56). -/
  t : Fin 64
  /-- BLK, the index of the block in progress (rule R56). -/
  blk : Nat
  /-- NBLK, the number of blocks (rule R56). -/
  nblk : Nat
  /-- The model's own: the parameters of the instance (rule R11); no step changes them. -/
  cfg : Config
  /-- The model's own: the moves of the agents still to come, first one next. -/
  moves : List Move
  /-- The model's own: the responses the host has received (rule R113), oldest first. -/
  responses : List Response
deriving DecidableEq, Repr

/-- The parts of the datapath that can be absent (rule R60). -/
inductive Datapath where
  | hs | vars | w | cu | msg | hex
deriving DecidableEq, Repr

/-- Why the machine stops. Each stop is one the spec names; all are safe (the machine stops where it says a model
faults or no step exists), and none is reached from a state that meets `MachineInv` while an agent has a step. -/
inductive Fault where
  /-- The sequencer is to step and has no enabled step: STATE is not BUSY, or PHASE is not that of the
  micro-operation, or PHASE is 0 (rule R54, entry U16: "stuck"). Raised by every micro-operation and by the
  sequencer's step. The normal end of a run with no moves left (rule R14). Safe. -/
  | notEnabled
  /-- PHASE holds 8 to 15 (rule R120, entry U12: "fault"). Raised by the sequencer's step. Safe. -/
  | phaseNeverHeld
  /-- A read of a datapath element that holds no value (rule R61, entry U9: "fault"). Raised by the operand reads of
  U_ENC, U_SCHED, U_COPY, U_ROUND, U_FOLD, U_FMT, RDWORD and RDCHAR. Safe. -/
  | absentRead (d : Datapath)
  /-- A read of CU at an index not below CU_COUNT (entry U2: "fault"). Raised by U_ENC. Safe. -/
  | cuBeyondCount
  /-- A read of MSG at an offset not below len(MSG) (rule R61). Raised by U_SCHED. Safe. -/
  | msgBeyondLength
  /-- The compressor is entered with no block: NBLK = 0 (entry U18: "fault if reached"). Raised by U_SCHED. Safe. -/
  | zeroBlocks
deriving DecidableEq, Repr

/-- Why the model has no meaning for an instruction. -/
inductive Refusal where
  /-- Raised only by an arm of `exec` whose instruction has no meaning yet; no arm is in that case. Safe. -/
  | notModelled (mnemonic : String)
deriving DecidableEq, Repr

/-- The state after reset (rule R60, rule R380): "unspecified" is absent. `MAX_CU` is open; the model gives the reset
state the largest legal value (log entry 2). -/
def State.reset : State where
  hs := none
  vars := none
  w := []
  cu := []
  msg := []
  msgLen := 0
  hex := []
  state := .idle
  err := .none
  cuCount := 0#32
  errPos := 0#32
  byteLen := 0#32
  phase := 0#4
  ci := 0
  t := 0
  blk := 0
  nblk := 0
  cfg := ⟨2 ^ 30⟩
  moves := []
  responses := []

end Sys2Proof.Machine
end

