-- ==== Sys2Proof/Machine/Functions.lean ====
section
/-! DEFINITION. The combinational functions of the four sub-blocks: the compressor's word functions (rule R200 to
rule R210) and constant tables (rule R44, rule R45), the encoder's emission forms (rule R154 to rule R159), the
padder's length (rule R182) and the formatter's digits (rule R262, rule R263). None of them touches the state. -/

namespace Sys2Proof.Machine

/-! ### Word functions -/

/-- `add32(x, y) = (x + y) mod 2^32` (rule R200). -/
def add32 (x y : Word) : Word := x + y

/-- The 32-bit right rotation (rule R202). -/
def rotr (x : Word) (n : Nat) : Word :=
  if n = 0 then x else (x >>> n) ||| (x <<< (32 - n))

/-- The logical right shift (rule R203). -/
def shr (x : Word) (n : Nat) : Word := x >>> n

/-- `S0`, Σ0 (rule R205). -/
def bigS0 (a : Word) : Word := rotr a 2 ^^^ rotr a 13 ^^^ rotr a 22
/-- `S1`, Σ1 (rule R206). -/
def bigS1 (e : Word) : Word := rotr e 6 ^^^ rotr e 11 ^^^ rotr e 25
/-- `s0`, σ0 (rule R207). -/
def smallS0 (w : Word) : Word := rotr w 7 ^^^ rotr w 18 ^^^ shr w 3
/-- `s1`, σ1 (rule R208). -/
def smallS1 (w : Word) : Word := rotr w 17 ^^^ rotr w 19 ^^^ shr w 10
/-- `ch` (rule R209). -/
def ch (e f g : Word) : Word := (e &&& f) ^^^ (~~~e &&& g)
/-- `maj` (rule R210). -/
def maj (a b c : Word) : Word := (a &&& b) ^^^ (a &&& c) ^^^ (b &&& c)

/-- The schedule word of rule R217 from `W[T-16]`, `W[T-15]`, `W[T-7]` and `W[T-2]`. -/
def scheduleWord (w16 w15 w7 w2 : Word) : Word :=
  add32 (add32 (add32 w16 (smallS0 w15)) w7) (smallS1 w2)

/-- One round on the working variables (rule R220), with the shift chain of rule R221 applied at once. -/
def roundStep (v : WorkVars) (k w : Word) : WorkVars :=
  let temp1 := add32 (add32 (add32 (add32 v.h (bigS1 v.e)) (ch v.e v.f v.g)) k) w
  let temp2 := add32 (bigS0 v.a) (maj v.a v.b v.c)
  { a := add32 temp1 temp2, b := v.a, c := v.b, d := v.c,
    e := add32 v.d temp1, f := v.e, g := v.f, h := v.g }

/-- The copy of the hash state into the working variables (rule R219). -/
def HashWords.toVars (x : HashWords) : WorkVars :=
  { a := x.h0, b := x.h1, c := x.h2, d := x.h3, e := x.h4, f := x.h5, g := x.h6, h := x.h7 }

/-- The fold (rule R223): each hash-state word plus the working variable of its index, `V = (a, ..., h)`. -/
def HashWords.fold (x : HashWords) (v : WorkVars) : HashWords :=
  { h0 := add32 x.h0 v.a, h1 := add32 x.h1 v.b, h2 := add32 x.h2 v.c, h3 := add32 x.h3 v.d,
    h4 := add32 x.h4 v.e, h5 := add32 x.h5 v.f, h6 := add32 x.h6 v.g, h7 := add32 x.h7 v.h }

/-- `HS[0..7]` in state order (rule R31). -/
def HashWords.toList (x : HashWords) : List Word :=
  [x.h0, x.h1, x.h2, x.h3, x.h4, x.h5, x.h6, x.h7]

/-- `HS[k]`, that is `hk` (rule R31). -/
def HashWords.word (x : HashWords) (k : BitVec 3) : Word :=
  if k = 0#3 then x.h0 else if k = 1#3 then x.h1 else if k = 2#3 then x.h2 else if k = 3#3 then x.h3
  else if k = 4#3 then x.h4 else if k = 5#3 then x.h5 else if k = 6#3 then x.h6 else x.h7

/-! ### Constant tables -/

/-- `IV[0..7]` (rule R44). -/
def iv : HashWords :=
  { h0 := 0x6a09e667#32, h1 := 0xbb67ae85#32, h2 := 0x3c6ef372#32, h3 := 0xa54ff53a#32,
    h4 := 0x510e527f#32, h5 := 0x9b05688c#32, h6 := 0x1f83d9ab#32, h7 := 0x5be0cd19#32 }

/-- `K[0..31]`, rows 0 to 3 of rule R45. -/
def kLow : List Word :=
  [0x428a2f98#32, 0x71374491#32, 0xb5c0fbcf#32, 0xe9b5dba5#32, 0x3956c25b#32, 0x59f111f1#32, 0x923f82a4#32, 0xab1c5ed5#32] ++
  [0xd807aa98#32, 0x12835b01#32, 0x243185be#32, 0x550c7dc3#32, 0x72be5d74#32, 0x80deb1fe#32, 0x9bdc06a7#32, 0xc19bf174#32] ++
  [0xe49b69c1#32, 0xefbe4786#32, 0x0fc19dc6#32, 0x240ca1cc#32, 0x2de92c6f#32, 0x4a7484aa#32, 0x5cb0a9dc#32, 0x76f988da#32] ++
  [0x983e5152#32, 0xa831c66d#32, 0xb00327c8#32, 0xbf597fc7#32, 0xc6e00bf3#32, 0xd5a79147#32, 0x06ca6351#32, 0x14292967#32]

/-- `K[32..63]`, rows 4 to 7 of rule R45. -/
def kHigh : List Word :=
  [0x27b70a85#32, 0x2e1b2138#32, 0x4d2c6dfc#32, 0x53380d13#32, 0x650a7354#32, 0x766a0abb#32, 0x81c2c92e#32, 0x92722c85#32] ++
  [0xa2bfe8a1#32, 0xa81a664b#32, 0xc24b8b70#32, 0xc76c51a3#32, 0xd192e819#32, 0xd6990624#32, 0xf40e3585#32, 0x106aa070#32] ++
  [0x19a4c116#32, 0x1e376c08#32, 0x2748774c#32, 0x34b0bcb5#32, 0x391c0cb3#32, 0x4ed8aa4a#32, 0x5b9cca4f#32, 0x682e6ff3#32] ++
  [0x748f82ee#32, 0x78a5636f#32, 0x84c87814#32, 0x8cc70208#32, 0x90befffa#32, 0xa4506ceb#32, 0xbef9a3f7#32, 0xc67178f2#32]

/-- The round-constant table (rule R34, rule R45). -/
def kTable : List Word := kLow ++ kHigh

/-- The table has 64 words (rule R9). -/
theorem kTable_length : kTable.length = 64 := by decide

/-- `K[i]` (rule R45). -/
def kAt (i : Fin 64) : Word := kTable.get (i.cast kTable_length.symm)

/-! ### Encoder -/

/-- A high surrogate: 0xD800 to 0xDBFF (rule R20). -/
def isHighSurrogate (u : CodeUnit) : Bool := decide (0xD800#16 ≤ u) && decide (u ≤ 0xDBFF#16)
/-- A low surrogate: 0xDC00 to 0xDFFF (rule R20). -/
def isLowSurrogate (u : CodeUnit) : Bool := decide (0xDC00#16 ≤ u) && decide (u ≤ 0xDFFF#16)

/-- A continuation byte: 0x80 OR the low six bits (rule R155, rule R156, rule R159). -/
def continuation (x : Word) : Byte := 0x80#8 ||| (x &&& 0x3F#32).setWidth 8

/-- emit1 (rule R154). -/
def emit1 (u : CodeUnit) : List Byte := [u.setWidth 8]
/-- emit2 (rule R155). -/
def emit2 (u : CodeUnit) : List Byte :=
  let x : Word := u.setWidth 32
  [0xC0#8 ||| (x >>> 6).setWidth 8, continuation x]
/-- emit3 (rule R156). -/
def emit3 (u : CodeUnit) : List Byte :=
  let x : Word := u.setWidth 32
  [0xE0#8 ||| (x >>> 12).setWidth 8, continuation (x >>> 6), continuation x]
/-- emit4 (rule R159). -/
def emit4 (cp : Word) : List Byte :=
  [0xF0#8 ||| (cp >>> 18).setWidth 8, continuation (cp >>> 12), continuation (cp >>> 6), continuation cp]

/-- The code point of a surrogate pair (rule R158). -/
def pairCodePoint (u v : CodeUnit) : Word :=
  0x10000#32 + (((u.setWidth 32 &&& 0x3FF#32) <<< 10) ||| (v.setWidth 32 &&& 0x3FF#32))

/-! ### Padder -/

/-- The padded length `P = 64 * ceil((8L + 65) / 512)` (rule R181, rule R182). -/
def paddedLength (len : Nat) : Nat := 64 * ((8 * len + 1 + 64 + 511) / 512)

/-- The four bytes of a word, most significant first (rule R82). -/
def wordBytes (v : Word) : List Byte :=
  [v.extractLsb' 24 8, v.extractLsb' 16 8, v.extractLsb' 8 8, v.extractLsb' 0 8]

/-- The word of four bytes, the byte at the lowest offset most significant (rule R82). -/
def wordOfBytes (b0 b1 b2 b3 : Byte) : Word := b0 ++ b1 ++ b2 ++ b3

/-- The high half of the length field, `floor(B / 2^32)` (rule R185). -/
def lengthHigh (bits : Nat) : Word := BitVec.ofNat 32 (bits / 2 ^ 32)
/-- The low half of the length field, `B mod 2^32` (rule R185). -/
def lengthLow (bits : Nat) : Word := BitVec.ofNat 32 (bits % 2 ^ 32)

/-! ### Formatter -/

/-- The ASCII code of a lowercase hex digit (rule R262). -/
def hexchar (n : BitVec 4) : Byte :=
  if n ≤ 9#4 then 0x30#8 + n.setWidth 8 else 0x61#8 + (n.setWidth 8 - 10#8)

/-- The eight characters of a word, most significant nibble first (rule R263). -/
def hex8 (w : Word) : List Byte :=
  [hexchar (w.extractLsb' 28 4), hexchar (w.extractLsb' 24 4), hexchar (w.extractLsb' 20 4), hexchar (w.extractLsb' 16 4),
   hexchar (w.extractLsb' 12 4), hexchar (w.extractLsb' 8 4), hexchar (w.extractLsb' 4 4), hexchar (w.extractLsb' 0 4)]

/-- The digest string of a hash state (rule R265). -/
def format (x : HashWords) : List Byte := x.toList.flatMap hex8

end Sys2Proof.Machine
end

