-- ==== Sys2Proof/Machine/Flags.lean ====
section
/-! DEFINITION. The status word (rule R46 to rule R48), the response codes (rule R114) and the acceptance table of the
commands (rule R294). -/

namespace Sys2Proof.Machine

/-- The value of the STATE field (rule R47). -/
def StateCode.bits : StateCode → BitVec 3
  | .idle => 0#3
  | .load => 1#3
  | .busy => 2#3
  | .done => 3#3
  | .error => 4#3

/-- The value of the ERR field (rule R48). -/
def ErrCode.bits : ErrCode → BitVec 4
  | .none => 0#4
  | .malformed => 1#4
  | .overflow => 2#4

/-- The value of RESP_CODE (rule R114). -/
def RespCode.bits : RespCode → BitVec 4
  | .ok => 0#4
  | .illegal => 1#4
  | .badState => 2#4
  | .overflow => 3#4

/-- `STATUS = zext_32({ERR[3:0], 0b0, STATE[2:0]})` (rule R46). -/
def statusWord (st : StateCode) (e : ErrCode) : Word := (e.bits ++ 0#1 ++ st.bits).setWidth 32

/-- STATUS, derived from STATE and ERR (rule R46). -/
def State.status (s : State) : Word := statusWord s.state s.err

/-- The acceptance table (rule R294) for the commands; for a micro-operation, the STATE in which the sequencer has a
step (rule R54). -/
def accepted : Instr → StateCode → Bool
  | .start, st => st != .busy
  | .push _, st => st == .load
  | .run, st => st == .load
  | .rdword _, st => st == .done
  | .rdchar _, st => st == .done
  | .rdregStatus, _ => true
  | .rdregCuCount, _ => true
  | .rdregErrpos, st => st == .error
  | .rdregByteLen, st => st == .done
  | .uEnc, st => st == .busy
  | .uPad, st => st == .busy
  | .uSched, st => st == .busy
  | .uCopy, st => st == .busy
  | .uRound, st => st == .busy
  | .uFold, st => st == .busy
  | .uFmt, st => st == .busy

end Sys2Proof.Machine
end

