-- ==== Sys2Proof/Machine/Ops.lean ====
section
/-! DEFINITION. The operations every meaning is written over: the index spaces and their canonical form, the message
buffer, the response to a command, entry to the sticky error state (rule R342) and the one way out of it (rule R351),
and the two frames an instruction runs in (a host command, a micro-operation). -/

namespace Sys2Proof.Machine

/-! ### Index spaces (rule R80) -/

/-- The element at index `i`, or `none` where the space holds no value there. -/
def Space.read {α : Type} : Space α → Nat → Option α
  | [], _ => none
  | (j, x) :: rest, i => if i = j then some x else Space.read rest i

/-- Write `x` at index `i`, keeping the indices strictly rising. -/
def Space.write {α : Type} : Space α → Nat → α → Space α
  | [], i, x => [(i, x)]
  | (j, y) :: rest, i, x =>
    if i < j then (i, x) :: (j, y) :: rest
    else if i = j then (i, x) :: rest
    else (j, y) :: Space.write rest i x

/-- Write a sequence of elements at `i, i + 1, ...`. -/
def Space.writeAll {α : Type} : Space α → Nat → List α → Space α
  | sp, _, [] => sp
  | sp, i, x :: xs => Space.writeAll (sp.write i x) (i + 1) xs

/-- The space that holds a sequence of elements at `i, i + 1, ...` and nothing else. -/
def Space.fromIndex {α : Type} : Nat → List α → Space α
  | _, [] => []
  | i, x :: xs => (i, x) :: Space.fromIndex (i + 1) xs

/-- The canonical form: indices strictly rising. An unlisted index holds no value, so no entry can repeat what an
unlisted index reads as. -/
def Space.wf {α : Type} : Space α → Bool
  | [] => true
  | [_] => true
  | (i, _) :: (j, y) :: rest => decide (i < j) && Space.wf ((j, y) :: rest)

/-- The canonical form of the byte buffers MSG and HEX. -/
abbrev Memory.wf (m : Memory) : Bool := Space.wf m

/-! ### The message buffer (rule R17, rule R37) -/

/-- `append(MSG, b)` for each byte in order: it is written at `MSG[len]` and `len` grows by 1 (rule R17). -/
def State.appendBytes (s : State) (bs : List Byte) : State :=
  { s with msg := s.msg.writeAll s.msgLen bs, msgLen := s.msgLen + bs.length }

/-- `MemWrite(addr, 4, v)`: the four bytes of `v`, big-endian (rule R17, rule R82). -/
def Memory.writeWord (m : Memory) (addr : Nat) (v : Word) : Memory := Space.writeAll m addr (wordBytes v)

/-! ### Responses and errors -/

/-- `respond(code, data)`: the response to the command of this step (rule R17, rule R113). -/
def State.respond (s : State) (code : RespCode) (data : Word) : State :=
  { s with responses := s.responses ++ [⟨code, data⟩] }

/-- `respond(OK, STATUS)` and the rejections: a response that carries the STATUS word (rule R113). -/
def State.respondStatus (s : State) (code : RespCode) : State := s.respond code s.status

/-- `raise E(info)`: entry to the sticky error state (rule R342). Nothing else changes. -/
def State.raiseError (s : State) (e : ErrCode) (info : Word) : State :=
  { s with state := .error, err := e, errPos := info, phase := 0#4 }

/-- The one way out of ERROR other than reset, START's effect (rule R351, rule R282): the hash state takes its initial
value, ERR and ERRPOS are cleared, the counters are 0 and STATE is LOAD. -/
def State.beginCall (s : State) : State :=
  { s with hs := some iv, cuCount := 0#32, err := .none, errPos := 0#32, byteLen := 0#32, msgLen := 0, ci := 0,
           t := 0, blk := 0, nblk := 0, phase := 0#4, state := .load }

/-- RUN's effect (rule R285): the message is emptied and the sequencer is started at U_ENC. -/
def State.beginRun (s : State) : State :=
  { s with msgLen := 0, byteLen := 0#32, ci := 0, state := .busy, phase := 1#4 }

/-- The reset event (rule R380): every piece of the spec's state takes its reset value (rule R60). The instance's
parameters are no state (rule R30), and the moves to come and the responses already given are not undone. -/
def State.resetEvent (s : State) : State :=
  { State.reset with cfg := s.cfg, moves := s.moves, responses := s.responses }

/-! ### The frames of an instruction -/

/-- The outcome of a computation that may fault. -/
def finish : Except Fault State → Host.Outcome State Fault Refusal
  | .ok s => .next s
  | .error f => .fault f

/-- A host command (rule R280, rule R281): if STATE does not accept it, it answers BAD_STATE and changes nothing
(rule R293); otherwise its body runs. -/
def hostCommand (i : Instr) (s : State) (body : State → Except Fault State) : Host.Outcome State Fault Refusal :=
  if accepted i s.state then finish (body s) else .next (s.respondStatus .badState)

/-- A micro-operation: enabled when STATE = BUSY and PHASE selects it; otherwise there is no step (rule R54,
entry U16). -/
def microOp (i : Instr) (p : BitVec 4) (s : State) (body : State → Except Fault State) :
    Host.Outcome State Fault Refusal :=
  if accepted i s.state && s.phase == p then finish (body s) else .fault .notEnabled

end Sys2Proof.Machine
end

