-- ==== Sys2Proof/Machine/Operands.lean ====
section
/-! DEFINITION. The operand reads of the commands and micro-operations. A read of an element that holds no value, or
outside the part of a buffer that may be read, is a fault (rule R61, entries U2 and U9). -/

namespace Sys2Proof.Machine

/-- A value that must be present. Of the read of an absent value rule R61 says "A model should still make a read of an
absent value a fault", and entry U9 lists the treatment `fault`, "the model stops with an error", for HS, a..h, W, CU, the
contents of MSG and HEX: the six parts `Datapath` names. -/
def present {α : Type} (d : Datapath) : Option α → Except Fault α
  | some x => .ok x
  | none => .error (.absentRead d)

/-- `HS[0..7]`. -/
def readHs (s : State) : Except Fault HashWords := present .hs s.hs

/-- `a..h`. -/
def readVars (s : State) : Except Fault WorkVars := present .vars s.vars

/-- `W[i]`. -/
def readW (s : State) (i : Nat) : Except Fault Word := present .w (s.w.read i)

/-- `HEX[j]`. -/
def readHex (s : State) (j : Nat) : Except Fault Byte := present .hex (s.hex.read j)

/-- `CU[i]`, readable only for `i < CU_COUNT` (rule R61, entry U2). -/
def readCu (s : State) (i : Nat) : Except Fault CodeUnit :=
  if i < s.cuCount.toNat then present .cu (s.cu.read i) else .error .cuBeyondCount

/-- `MSG[i]`, readable only below `len(MSG)` (rule R61). -/
def readMsg (s : State) (i : Nat) : Except Fault Byte :=
  if i < s.msgLen then present .msg (s.msg.read i) else .error .msgBeyondLength

/-- `MemRead(addr, 4)`: four bytes of MSG, big-endian (rule R17, rule R82). -/
def memReadWord (s : State) (addr : Nat) : Except Fault Word := do
  let b0 ← readMsg s addr
  let b1 ← readMsg s (addr + 1)
  let b2 ← readMsg s (addr + 2)
  let b3 ← readMsg s (addr + 3)
  .ok (wordOfBytes b0 b1 b2 b3)

end Sys2Proof.Machine
end

