-- ==== Sys2Proof/Machine/Compressor.lean ====
section
/-! DEFINITION. The compressor's micro-operations U_SCHED, U_COPY, U_ROUND and U_FOLD (rule R216 to rule R224). -/

namespace Sys2Proof.Machine

/-- The word U_SCHED writes: a message word for `T < 16` (rule R216), an expanded word after (rule R217). -/
def nextScheduleWord (s : State) : Except Fault Word :=
  if s.t.val < 16 then memReadWord s (64 * s.blk + 4 * s.t.val)
  else do
    let w16 ← readW s (s.t.val - 16)
    let w15 ← readW s (s.t.val - 15)
    let w7 ← readW s (s.t.val - 7)
    let w2 ← readW s (s.t.val - 2)
    .ok (scheduleWord w16 w15 w7 w2)

/-- `W[T] <- x` and the U_SCHED advance (rule R218). -/
def State.storeScheduleWord (s : State) (x : Word) : State :=
  if s.t = 63 then { s with w := s.w.write s.t.val x, t := 0, phase := 4#4 }
  else { s with w := s.w.write s.t.val x, t := s.t + 1 }

/-- U_SCHED (rule R216 to rule R218). A compressor given no block is a fault (entry U18). -/
def execUSched (s : State) : Host.Outcome State Fault Refusal :=
  microOp .uSched 3#4 s fun s =>
    if s.nblk = 0 then .error .zeroBlocks
    else do
      let x ← nextScheduleWord s
      .ok (s.storeScheduleWord x)

/-- The working variables loaded, T at 0 and the phase U_ROUND (rule R219). -/
def State.loadVars (s : State) (v : WorkVars) : State := { s with vars := some v, t := 0, phase := 5#4 }

/-- U_COPY (rule R219). -/
def execUCopy (s : State) : Host.Outcome State Fault Refusal :=
  microOp .uCopy 4#4 s fun s => do
    let x ← readHs s
    .ok (s.loadVars x.toVars)

/-- The new working variables and the U_ROUND advance (rule R222). -/
def State.storeRound (s : State) (v : WorkVars) : State :=
  if s.t = 63 then { s with vars := some v, phase := 6#4 }
  else { s with vars := some v, t := s.t + 1 }

/-- U_ROUND (rule R220 to rule R222). -/
def execURound (s : State) : Host.Outcome State Fault Refusal :=
  microOp .uRound 5#4 s fun s => do
    let v ← readVars s
    let x ← readW s s.t.val
    .ok (s.storeRound (roundStep v (kAt s.t) x))

/-- The fold of one block and the block advance (rule R223, rule R224). -/
def State.storeFold (s : State) (x : HashWords) : State :=
  { s with hs := some x, blk := s.blk + 1, t := 0, phase := if s.blk + 1 = s.nblk then 7#4 else 3#4 }

/-- U_FOLD (rule R223, rule R224). -/
def execUFold (s : State) : Host.Outcome State Fault Refusal :=
  microOp .uFold 6#4 s fun s => do
    let x ← readHs s
    let v ← readVars s
    .ok (s.storeFold (x.fold v))

end Sys2Proof.Machine
end

