-- ==== Sys2Proof/Machine/Encoder.lean ====
section
/-! DEFINITION. The encoder's micro-operation U_ENC (rule R151 to rule R163). -/

namespace Sys2Proof.Machine

/-- One group: its bytes are appended to MSG, BYTE_LEN grows by their number (rule R163), and CI moves past the code
units the group consumed. -/
def State.emitGroup (s : State) (bytes : List Byte) (units : Nat) : State :=
  { s.appendBytes bytes with
    byteLen := s.byteLen + BitVec.ofNat 32 bytes.length
    ci := s.ci + units }

/-- `raise MALFORMED(CI)` (rule R160 to rule R162, rule R342). -/
def State.raiseMalformed (s : State) : State := s.raiseError .malformed (BitVec.ofNat 32 s.ci)

/-- The case of a high surrogate `u` at CI (rule R157 to rule R161). -/
def encodePair (s : State) (u : CodeUnit) : Except Fault State :=
  if s.ci + 1 = s.cuCount.toNat then .ok s.raiseMalformed
  else do
    let v ← readCu s (s.ci + 1)
    if v < 0xDC00#16 ∨ v > 0xDFFF#16 then .ok s.raiseMalformed
    else .ok (s.emitGroup (emit4 (pairCodePoint u v)) 2)

/-- The pseudocode of U_ENC (rule R151), its cases in the rule's order. -/
def encodeStep (s : State) : Except Fault State :=
  if s.ci = s.cuCount.toNat then .ok { s with phase := 2#4 }
  else do
    let u ← readCu s s.ci
    if u < 0x0080#16 then .ok (s.emitGroup (emit1 u) 1)
    else if u < 0x0800#16 then .ok (s.emitGroup (emit2 u) 1)
    else if u < 0xD800#16 ∨ u > 0xDFFF#16 then .ok (s.emitGroup (emit3 u) 1)
    else if u ≤ 0xDBFF#16 then encodePair s u
    else .ok s.raiseMalformed

/-- U_ENC (rule R151). -/
def execUEnc (s : State) : Host.Outcome State Fault Refusal := microOp .uEnc 1#4 s encodeStep

end Sys2Proof.Machine
end

