-- ==== Sys2Proof/Machine/Formatter.lean ====
section
/-! DEFINITION. The formatter's micro-operation U_FMT (rule R261 to rule R264). -/

namespace Sys2Proof.Machine

/-- The 64 characters into `HEX[0..63]`, all of HEX, then STATE <- DONE and PHASE <- 0 (rule R261, rule R264). -/
def State.storeDigest (s : State) (x : HashWords) : State :=
  { s with hex := Space.fromIndex 0 (format x), state := .done, phase := 0#4 }

/-- U_FMT (rule R261). -/
def execUFmt (s : State) : Host.Outcome State Fault Refusal :=
  microOp .uFmt 7#4 s fun s => do
    let x ← readHs s
    .ok (s.storeDigest x)

end Sys2Proof.Machine
end

