-- ==== Sys2Proof/Machine/HostCommands.lean ====
section
/-! DEFINITION. The meanings of the host commands (rule R282 to rule R291). -/

namespace Sys2Proof.Machine

/-- START (rule R282). -/
def execStart (s : State) : Host.Outcome State Fault Refusal :=
  hostCommand .start s fun s => .ok (s.beginCall.respondStatus .ok)

/-- `CU[CU_COUNT] <- u; CU_COUNT <- CU_COUNT + 1` (rule R283). -/
def State.storeCodeUnit (s : State) (u : CodeUnit) : State :=
  { s with cu := s.cu.write s.cuCount.toNat u, cuCount := s.cuCount + 1#32 }

/-- PUSH u (rule R283), and on a full buffer OVERFLOW (rule R284). -/
def execPush (u : CodeUnit) (s : State) : Host.Outcome State Fault Refusal :=
  hostCommand (.push u) s fun s =>
    if s.cuCount.toNat = s.cfg.maxCu then
      .ok ((s.raiseError .overflow s.cuCount).respondStatus .overflow)
    else
      .ok ((s.storeCodeUnit u).respondStatus .ok)

/-- RUN (rule R285). -/
def execRun (s : State) : Host.Outcome State Fault Refusal :=
  hostCommand .run s fun s => .ok (s.beginRun.respondStatus .ok)

/-- RDWORD k (rule R286). -/
def execRdword (k : BitVec 3) (s : State) : Host.Outcome State Fault Refusal :=
  hostCommand (.rdword k) s fun s => do
    let x ← readHs s
    .ok (s.respond .ok (x.word k))

/-- RDCHAR j (rule R287). -/
def execRdchar (j : BitVec 6) (s : State) : Host.Outcome State Fault Refusal :=
  hostCommand (.rdchar j) s fun s => do
    let b ← readHex s j.toNat
    .ok (s.respond .ok (b.setWidth 32))

/-- RDREG 0, STATUS (rule R288). -/
def execRdregStatus (s : State) : Host.Outcome State Fault Refusal :=
  hostCommand .rdregStatus s fun s => .ok (s.respond .ok s.status)

/-- RDREG 1, CU_COUNT (rule R289). -/
def execRdregCuCount (s : State) : Host.Outcome State Fault Refusal :=
  hostCommand .rdregCuCount s fun s => .ok (s.respond .ok s.cuCount)

/-- RDREG 2, ERRPOS (rule R290). -/
def execRdregErrpos (s : State) : Host.Outcome State Fault Refusal :=
  hostCommand .rdregErrpos s fun s => .ok (s.respond .ok s.errPos)

/-- RDREG 3, BYTE_LEN (rule R291). -/
def execRdregByteLen (s : State) : Host.Outcome State Fault Refusal :=
  hostCommand .rdregByteLen s fun s => .ok (s.respond .ok s.byteLen)

end Sys2Proof.Machine
end

