-- ==== Sys2Proof/Machine/Padder.lean ====
section
/-! DEFINITION. The padder's micro-operation U_PAD (rule R181 to rule R188). -/

namespace Sys2Proof.Machine

/-- The bytes U_PAD writes after a message of `len` bytes (rule R181): the marker (rule R183), the zeros (rule R184)
and the two halves of the length field (rule R185). -/
def padMessage (m : Memory) (len : Nat) : Memory :=
  let p := paddedLength len
  let m1 := Space.write m len 0x80#8
  let m2 := Space.writeAll m1 (len + 1) (List.replicate (p - len - 9) 0x00#8)
  let m3 := Memory.writeWord m2 (p - 8) (lengthHigh (8 * len))
  Memory.writeWord m3 (p - 4) (lengthLow (8 * len))

/-- The pseudocode of U_PAD (rule R181, rule R186). -/
def padStep (s : State) : State :=
  { s with
    msg := padMessage s.msg s.msgLen
    msgLen := paddedLength s.msgLen
    nblk := paddedLength s.msgLen / 64
    blk := 0
    t := 0
    phase := 3#4 }

/-- U_PAD (rule R181). -/
def execUPad (s : State) : Host.Outcome State Fault Refusal := microOp .uPad 2#4 s fun s => .ok (padStep s)

end Sys2Proof.Machine
end

