-- ==== Sys2Proof/Machine/Dispatch.lean ====
section
/-! DEFINITION. One arm per instruction: a direct call of its meaning. -/

namespace Sys2Proof.Machine

def exec (i : Instr) (s : State) : Host.Outcome State Fault Refusal :=
  match i with
  -- host commands
  | .start => Sys2Proof.Machine.execStart s
  | .push u => Sys2Proof.Machine.execPush u s
  | .run => Sys2Proof.Machine.execRun s
  | .rdword k => Sys2Proof.Machine.execRdword k s
  | .rdchar j => Sys2Proof.Machine.execRdchar j s
  | .rdregStatus => Sys2Proof.Machine.execRdregStatus s
  | .rdregCuCount => Sys2Proof.Machine.execRdregCuCount s
  | .rdregErrpos => Sys2Proof.Machine.execRdregErrpos s
  | .rdregByteLen => Sys2Proof.Machine.execRdregByteLen s
  -- micro-operations
  | .uEnc => Sys2Proof.Machine.execUEnc s
  | .uPad => Sys2Proof.Machine.execUPad s
  | .uSched => Sys2Proof.Machine.execUSched s
  | .uCopy => Sys2Proof.Machine.execUCopy s
  | .uRound => Sys2Proof.Machine.execURound s
  | .uFold => Sys2Proof.Machine.execUFold s
  | .uFmt => Sys2Proof.Machine.execUFmt s

end Sys2Proof.Machine
end

