-- ==== Sys2Proof/Machine/Agents.lean ====
section
/-! DEFINITION. The two agents (rule R13): the host, whose step decodes a command word and answers it (rule R280), and
the sequencer, whose step performs the micro-operation that PHASE selects (rule R54); and which of them moves next. -/

namespace Sys2Proof.Machine

/-- One host step on a command word (rule R280): a word that spells no command answers ILLEGAL and changes nothing
(rule R292). -/
def hostStep (w : Word) (s : State) : Host.Outcome State Fault Refusal :=
  match decode (.command w) with
  | .ok i => exec i s
  | .error _ => .next (s.respondStatus .illegal)

/-- One sequencer step (rule R54). PHASE 0 has no step and PHASE 8 to 15 is a fault (rule R120). -/
def sequencerStep (s : State) : Host.Outcome State Fault Refusal :=
  if s.state = .busy then
    match decode (.phase s.phase) with
    | .ok i => exec i s
    | .error .phaseNeverHeld => .fault .phaseNeverHeld
    | .error _ => .fault .notEnabled
  else .fault .notEnabled

/-- The word of RDREG STATUS, the one command of POLL (rule R123). -/
def pollWord : Word := 0x60000000#32

/-- `RESP_DATA[2:0] = 2 (BUSY)` in the newest response (rule R123). -/
def lastAnswerIsBusy (s : State) : Bool :=
  match s.responses.getLast? with
  | some r => r.data.extractLsb' 0 3 == 2#3
  | none => false

/-- One turn of the POLL loop (rule R123): RDREG STATUS, and while the answer is BUSY the loop goes round again. Between
two polls the sequencer takes one step, a fair interleaving (rule R390, log entry 5). -/
def pollStep (s : State) : Host.Outcome State Fault Refusal :=
  match hostStep pollWord s with
  | .next t => .next (if lastAnswerIsBusy t then { t with moves := .sequencer :: .poll :: t.moves } else t)
  | .fault f => .fault f
  | .refused r => .refused r

/-- The next move and the state with it taken off the list. When the host issues nothing more, the sequencer goes on
alone (rule R390, log entry 4). -/
def takeMove (s : State) : Move × State :=
  match s.moves with
  | [] => (.sequencer, s)
  | m :: rest => (m, { s with moves := rest })

/-- One move, one atomic step (rule R89). -/
def runMove : Move → State → Host.Outcome State Fault Refusal
  | .command w, s => hostStep w s
  | .reset, s => .next s.resetEvent
  | .poll, s => pollStep s
  | .sequencer, s => sequencerStep s

/-! ### Placing an instruction as the next one to run -/

/-- Give index `i` the value `x` if it holds none. -/
def Space.fill {α : Type} (sp : Space α) (x : α) (i : Nat) : Space α :=
  match sp.read i with
  | some _ => sp
  | none => sp.write i x

/-- The datapath with every operand of a micro-operation present: what is absent becomes zero, and the message buffer
is long enough for the word U_SCHED reads (log entry 7). -/
def State.operandsPresent (s : State) : State :=
  { s with
    hs := some (s.hs.getD ⟨0#32, 0#32, 0#32, 0#32, 0#32, 0#32, 0#32, 0#32⟩)
    vars := some (s.vars.getD ⟨0#32, 0#32, 0#32, 0#32, 0#32, 0#32, 0#32, 0#32⟩)
    w := (List.range 64).foldl (fun sp i => Space.fill sp 0#32 i) s.w
    msg := (List.range 64).foldl (fun sp i => Space.fill sp 0#8 (64 * s.blk + i)) s.msg
    msgLen := max s.msgLen (64 * (s.blk + 1))
    nblk := max s.nblk 1 }

/-- The sequencer about to perform the micro-operation with PHASE `p`. The compressor and the formatter follow other
stages (rule R100), so for PHASE 3 to 7 their operands are made present first. -/
def placePhase (s : State) (p : BitVec 4) : State :=
  let s1 := if 3#4 ≤ p ∧ p ≤ 7#4 then s.operandsPresent else s
  { s1 with state := .busy, phase := p, moves := .sequencer :: s.moves }

/-- The host about to issue the command word `w`. -/
def placeCommand (s : State) (w : Word) : State := { s with moves := .command w :: s.moves }

/-- The instruction of a table row, placed as the next one to run. A number that is no code of its format changes
nothing. -/
def placeTableWord (s : State) (nbits w : Nat) : State :=
  match tableCode nbits w with
  | some (.command c) => placeCommand s c
  | some (.phase p) => placePhase s p
  | none => s

end Sys2Proof.Machine
end

