-- ==== Sys2Proof/Machine/Step.lean ====
section
/-! DEFINITION. One step of the machine: one move of one agent, the two agents' atomic steps taken one at a time in one
interleaving (rule R89, rule R92). -/

namespace Sys2Proof.Machine

/-- One step: the next move is taken off the list and performed. -/
def step (s : State) : Host.Outcome State Fault Refusal :=
  runMove (takeMove s).1 (takeMove s).2

/-- The state whose very next step runs the instruction of a table row. A command is put at the head of the moves; a
micro-operation is selected by PHASE in STATE BUSY, the sequencer moving next. -/
def State.withFetchWord (s : State) (nbits w : Nat) : State := placeTableWord s nbits w

end Sys2Proof.Machine
end

