-- ==== Sys2Proof/Machine/Assembly.lean ====
section
/-! DEFINITION. The host's assembly notation (rule R122) and its pseudo-instructions (rule R123): what a line of text
means as moves of the host. -/

namespace Sys2Proof.Machine

/-- A line of host assembly. -/
inductive AsmLine where
  | start
  | push (u : CodeUnit)
  | run
  | rdword (k : BitVec 3)
  | rdchar (j : BitVec 6)
  | rdreg (sel : BitVec 2)
  | word (w : Word)
  | pushs (text : List Char)
  | poll
  | readhex
  | hash (text : List Char)
deriving DecidableEq, Repr

/-- The UTF-16 code units of one character, a high surrogate first (rule R123). -/
def utf16 (c : Char) : List CodeUnit :=
  if c.toNat < 0x10000 then [BitVec.ofNat 16 c.toNat]
  else
    [BitVec.ofNat 16 (0xD800 + (c.toNat - 0x10000) / 2 ^ 10), BitVec.ofNat 16 (0xDC00 + (c.toNat - 0x10000) % 2 ^ 10)]

/-- The move that issues an instruction, which must be a command. -/
def commandMove (i : Instr) : List Move :=
  match encode i with
  | .command w => [.command w]
  | .phase _ => []

/-- PUSHS (rule R123). -/
def pushsMoves (text : List Char) : List Move := (text.flatMap utf16).flatMap fun u => commandMove (.push u)

/-- READHEX (rule R123). -/
def readhexMoves : List Move := (List.range 64).flatMap fun j => commandMove (.rdchar (BitVec.ofNat 6 j))

/-- What a line does: the moves it assembles to. -/
def AsmLine.moves : AsmLine → List Move
  | .start => commandMove .start
  | .push u => commandMove (.push u)
  | .run => commandMove .run
  | .rdword k => commandMove (.rdword k)
  | .rdchar j => commandMove (.rdchar j)
  | .rdreg sel => commandMove (rdregOf sel)
  | .word w => [.command w]
  | .pushs text => pushsMoves text
  | .poll => [.poll]
  | .readhex => readhexMoves
  | .hash text =>
    commandMove .start ++ pushsMoves text ++ commandMove .run ++ [.poll] ++ readhexMoves

/-! ### Reading a line of text (rule R122) -/

/-- Drop a comment (rule R122): `;` to the end of the line, outside a quoted character `'<c>'` and outside a text in double
quotes (log entry 8). The character between two single quotes is any one, a quote or `;` too. The first argument says
whether the scan is inside a text. -/
def stripComment : Bool → List Char → List Char
  | _, [] => []
  | true, c :: cs => c :: stripComment (c != '"') cs
  | false, '\'' :: c :: '\'' :: cs => '\'' :: c :: '\'' :: stripComment false cs
  | false, c :: cs => if c = ';' then [] else c :: stripComment (c == '"') cs

/-- A blank. -/
def isBlank (c : Char) : Bool := c = ' ' || c = '\t'

/-- Drop the blanks at both ends. -/
def trimBlanks (cs : List Char) : List Char := ((cs.dropWhile isBlank).reverse.dropWhile isBlank).reverse

/-- The value of a digit in base 16 or less. -/
def digitValue (c : Char) : Nat :=
  if '0'.toNat ≤ c.toNat ∧ c.toNat ≤ '9'.toNat then c.toNat - '0'.toNat
  else if 'a'.toNat ≤ c.toNat ∧ c.toNat ≤ 'f'.toNat then c.toNat - 'a'.toNat + 10
  else if 'A'.toNat ≤ c.toNat ∧ c.toNat ≤ 'F'.toNat then c.toNat - 'A'.toNat + 10
  else 16

/-- Read digits of a base after the value `acc`. -/
def digitsFrom (base acc : Nat) : List Char → Option Nat
  | [] => some acc
  | c :: cs => if digitValue c < base then digitsFrom base (acc * base + digitValue c) cs else none

/-- A number below a bound, decimal or `0x` hex (rule R122). -/
def number (bound : Nat) (cs : List Char) : Option Nat :=
  let v :=
    match cs with
    | [] => none
    | '0' :: 'x' :: [] => none
    | '0' :: 'x' :: ds => digitsFrom 16 0 ds
    | ds => digitsFrom 10 0 ds
  match v with
  | some n => if n < bound then some n else none
  | none => none

/-- A text between double quotes. -/
def quoted : List Char → Option (List Char)
  | '"' :: cs =>
    match cs.reverse with
    | '"' :: body => some body.reverse
    | _ => none
  | _ => none

/-- The operand of PUSH: one quoted character of the BMP, or a number of 16 bits. -/
def pushOperand : List Char → Option CodeUnit
  | ['\'', c, '\''] => if c.toNat < 0x10000 then some (BitVec.ofNat 16 c.toNat) else none
  | cs => (number (2 ^ 16) cs).map (BitVec.ofNat 16)

/-- The operand of RDREG: a number or a register's name. -/
def rdregOperand (cs : List Char) : Option (BitVec 2) :=
  if cs = ['S', 'T', 'A', 'T', 'U', 'S'] then some 0#2
  else if cs = ['C', 'U', '_', 'C', 'O', 'U', 'N', 'T'] then some 1#2
  else if cs = ['E', 'R', 'R', 'P', 'O', 'S'] then some 2#2
  else if cs = ['B', 'Y', 'T', 'E', '_', 'L', 'E', 'N'] then some 3#2
  else (number 4 cs).map (BitVec.ofNat 2)

/-- A line that takes no operand. -/
def noOperand (l : AsmLine) (cs : List Char) : Option (List AsmLine) := if cs = [] then some [l] else none

/-- Read one line; a blank line or a line of comment is no line of assembly, and a text that is none of the forms of
rule R122 and rule R123 is refused. -/
def parseLine (text : List Char) : Option (List AsmLine) :=
  let cs := trimBlanks (stripComment false text)
  let name := cs.takeWhile fun c => !isBlank c
  let arg := trimBlanks (cs.dropWhile fun c => !isBlank c)
  if cs = [] then some []
  else if name = ['S', 'T', 'A', 'R', 'T'] then noOperand .start arg
  else if name = ['P', 'U', 'S', 'H'] then (pushOperand arg).map fun u => [.push u]
  else if name = ['R', 'U', 'N'] then noOperand .run arg
  else if name = ['R', 'D', 'W', 'O', 'R', 'D'] then (number 8 arg).map fun k => [.rdword (BitVec.ofNat 3 k)]
  else if name = ['R', 'D', 'C', 'H', 'A', 'R'] then (number 64 arg).map fun j => [.rdchar (BitVec.ofNat 6 j)]
  else if name = ['R', 'D', 'R', 'E', 'G'] then (rdregOperand arg).map fun sel => [.rdreg sel]
  else if name = ['.', 'w', 'o', 'r', 'd'] then (number (2 ^ 32) arg).map fun w => [.word (BitVec.ofNat 32 w)]
  else if name = ['P', 'U', 'S', 'H', 'S'] then (quoted arg).map fun t => [.pushs t]
  else if name = ['P', 'O', 'L', 'L'] then noOperand .poll arg
  else if name = ['R', 'E', 'A', 'D', 'H', 'E', 'X'] then noOperand .readhex arg
  else if name = ['H', 'A', 'S', 'H'] then (quoted arg).map fun t => [.hash t]
  else none

/-- The moves of a program, one command per line (rule R122). -/
def assemble : List (List Char) → Option (List Move)
  | [] => some []
  | l :: ls =>
    match parseLine l, assemble ls with
    | some a, some ms => some (a.flatMap AsmLine.moves ++ ms)
    | _, _ => none

end Sys2Proof.Machine
end

