-- ==== Sys2Proof/Machine/Reference.lean ====
section
/-! DEFINITION. The four stages and the whole hash as functions on lists, as the spec states them beside the
micro-operations (rule R164, rule R189, rule R226, rule R265, rule R295), and the step counts of rule R392. No step of
the machine calls `encodeText`, `pad`, `schedule`, `compress` or `hashText`: the claims compare the machine with them. -/

namespace Sys2Proof.Machine

/-! ### The encoder as a function (rule R164) -/

/-- The bytes of a code unit that is a group of its own: rows 1 to 3 of rule R153. -/
def unitBytes (u : CodeUnit) : Option (List Byte) :=
  if u.toNat < 0x80 then some (emit1 u)
  else if u.toNat < 0x800 then some (emit2 u)
  else if isHighSurrogate u || isLowSurrogate u then none
  else some (emit3 u)

/-- Put the bytes of a group before the bytes of the rest. -/
def prependBytes (bs : List Byte) : Except Nat (List Byte) → Except Nat (List Byte)
  | .ok m => .ok (bs ++ m)
  | .error p => .error p

/-- `encode` from index `i` on: the bytes, or the index of the first offending code unit. -/
def encodeFrom : Nat → List CodeUnit → Except Nat (List Byte)
  | _, [] => .ok []
  | i, [u] =>
    match unitBytes u with
    | some bs => .ok bs
    | none => .error i
  | i, u :: v :: rest =>
    match unitBytes u with
    | some bs => prependBytes bs (encodeFrom (i + 1) (v :: rest))
    | none =>
      if isHighSurrogate u && isLowSurrogate v then
        prependBytes (emit4 (pairCodePoint u v)) (encodeFrom (i + 2) rest)
      else .error i

/-- `encode(c)` (rule R164). -/
def encodeText (c : List CodeUnit) : Except Nat (List Byte) := encodeFrom 0 c

/-- The number of complete groups before the end of the text or the first offending code unit (rule R165). -/
def groupCount : List CodeUnit → Nat
  | [] => 0
  | [u] => if (unitBytes u).isSome then 1 else 0
  | u :: v :: rest =>
    if (unitBytes u).isSome then 1 + groupCount (v :: rest)
    else if isHighSurrogate u && isLowSurrogate v then 1 + groupCount rest
    else 0

/-! ### The padder as a function (rule R189) -/

/-- `pad(m)`. -/
def pad (m : List Byte) : List Byte :=
  m ++ [0x80#8] ++ List.replicate (paddedLength m.length - m.length - 9) 0x00#8 ++
    wordBytes (lengthHigh (8 * m.length)) ++ wordBytes (lengthLow (8 * m.length))

/-! ### The compressor as functions (rule R226) -/

/-- Word `i` of a block of bytes, big-endian (rule R216). -/
def blockWord (blk : List Byte) (i : Nat) : Word :=
  wordOfBytes (blk.getD (4 * i) 0#8) (blk.getD (4 * i + 1) 0#8) (blk.getD (4 * i + 2) 0#8) (blk.getD (4 * i + 3) 0#8)

/-- Extend a schedule by `n` words (rule R217). -/
def extendSchedule : Nat → List Word → List Word
  | 0, ws => ws
  | n + 1, ws =>
    let t := ws.length
    extendSchedule n (ws ++
      [scheduleWord (ws.getD (t - 16) 0#32) (ws.getD (t - 15) 0#32) (ws.getD (t - 7) 0#32) (ws.getD (t - 2) 0#32)])

/-- `schedule(blk)`: the 64 words of a block. -/
def schedule (blk : List Byte) : List Word := extendSchedule 48 ((List.range 16).map (blockWord blk))

/-- Rounds 0 to 63 on the working variables. -/
def rounds (ws : List Word) (v : WorkVars) : WorkVars :=
  (List.finRange 64).foldl (fun v i => roundStep v (kAt i) (ws.getD i.val 0#32)) v

/-- `compress(H, blk)`. -/
def compress (x : HashWords) (blk : List Byte) : HashWords := x.fold (rounds (schedule blk) x.toVars)

/-- Block `i` of a padded message. -/
def blockAt (m : List Byte) (i : Nat) : List Byte := (m.drop (64 * i)).take 64

/-- `compressAll(m)`: the blocks of a padded message, in order, from `IV` (rule R226). With no block it is `IV`
(rule R225). -/
def compressAll (m : List Byte) : HashWords :=
  (List.range (m.length / 64)).foldl (fun x i => compress x (blockAt m i)) iv

/-! ### The hash contract (rule R295) -/

/-- `hash(c)`: the 64 characters of the digest, or the index of the unpaired surrogate. -/
def hashText (c : List CodeUnit) : Except Nat (List Byte) :=
  match encodeText c with
  | .error p => .error p
  | .ok m => .ok (format (compressAll (pad m)))

/-- The sequencer steps of a call (rule R392). -/
def callSteps (c : List CodeUnit) : Nat :=
  match encodeText c with
  | .ok m => (groupCount c + 1) + 1 + 130 * (paddedLength m.length / 64) + 1
  | .error _ => groupCount c + 1

end Sys2Proof.Machine
end

