-- ==== Sys2Proof/Safety.lean ====
section
/-! DEFINITION. The terms the claims are made in: what the host can observe (rule R58), the invariant of the machine
(the ranges and relations rule R36 to rule R61 state of every reachable state), and the run of one hash call. -/

namespace Sys2Proof.Machine

/-- The next state of an outcome, if it is one. -/
def nextState? : Host.Outcome State Fault Refusal → Option State
  | .next t => some t
  | .fault _ => none
  | .refused _ => none

/-- The newest response. -/
def State.lastResponse (s : State) : Option Response := s.responses.getLast?

/-- A micro-operation is the one PHASE `p` selects, and has no step in another PHASE or outside BUSY (rule R54, rule
R120). -/
def selectedBy (i : Instr) (p : BitVec 4) : Prop :=
  encode i = .phase p ∧ ∀ s : State, ¬(s.state = .busy ∧ s.phase = p) → exec i s = .fault .notEnabled

/-- A command answers BAD_STATE, and changes nothing but the responses, in every STATE that is not listed (rule R293). -/
def acceptedOnlyIn (i : Instr) (sts : List StateCode) : Prop :=
  ∀ s : State, s.state ∉ sts → exec i s = .next { s with responses := s.responses ++ [⟨.badState, s.status⟩] }

/-- What the host can observe of the instance (rule R58): STATE, ERR and CU_COUNT always, ERRPOS in ERROR, and BYTE_LEN,
HS and HEX in DONE. -/
structure HostView where
  state : StateCode
  err : ErrCode
  cuCount : Word
  errPos : Option Word
  byteLen : Option Word
  hs : Option HashWords
  hex : List (Option Byte)
deriving DecidableEq, Repr

/-- The host's view of a state. -/
def State.hostView (s : State) : HostView where
  state := s.state
  err := s.err
  cuCount := s.cuCount
  errPos := if s.state = .error then some s.errPos else none
  byteLen := if s.state = .done then some s.byteLen else none
  hs := if s.state = .done then s.hs else none
  hex := if s.state = .done then (List.range 64).map s.hex.read else []

/-- Every index below `n` holds a value. -/
def Space.presentBelow {α : Type} (sp : Space α) (n : Nat) : Prop := ∀ i < n, (sp.read i).isSome = true

/-- No index from `n` on holds a value. -/
def Space.within {α : Type} (sp : Space α) (n : Nat) : Prop := ∀ i, n ≤ i → sp.read i = none

/-- The invariant of the machine. Each field names the rule it states. -/
structure MachineInv (s : State) : Prop where
  /-- The parameter is legal (rule R11). -/
  cfgLegal : s.cfg.Legal
  /-- The four index spaces are in canonical form. -/
  cuWf : s.cu.wf = true
  msgWf : Memory.wf s.msg = true
  wWf : s.w.wf = true
  hexWf : Memory.wf s.hex = true
  /-- The index spaces keep within their sizes (rule R33, rule R36, rule R37, rule R38, rule R80, rule R81). -/
  cuWithin : s.cu.within s.cfg.maxCu
  msgWithin : s.msg.within s.cfg.pmax
  wWithin : s.w.within 64
  hexWithin : s.hex.within 64
  /-- `STATE = BUSY <-> PHASE != 0` (rule R55). -/
  busyPhase : s.state = .busy ↔ s.phase ≠ 0#4
  /-- PHASE 8 to 15 is never held (rule R55). -/
  phaseHeld : s.phase.toNat ≤ 7
  /-- `ERR != 0` exactly when `STATE = ERROR` (rule R48). -/
  errState : s.err ≠ .none ↔ s.state = .error
  /-- CU_COUNT is at most MAX_CU (rule R49). -/
  countLe : s.cuCount.toNat ≤ s.cfg.maxCu
  /-- Every code unit pushed is there (rule R36). -/
  cuPresent : s.cu.presentBelow s.cuCount.toNat
  /-- ERRPOS (rule R50). -/
  errPosMalformed : s.err = .malformed → s.errPos.toNat < s.cuCount.toNat
  errPosOverflow : s.err = .overflow → s.errPos = s.cuCount ∧ s.cuCount.toNat = s.cfg.maxCu
  errPosNone : s.err = .none → s.errPos = 0#32
  /-- HS holds a value from the first START on (rule R61). -/
  hsPresent : s.state ≠ .idle → s.hs.isSome = true
  /-- In DONE, HEX is the rendering of HS (rule R264). -/
  hexRenders : s.state = .done → ∃ x, s.hs = some x ∧ ∀ j < 64, s.hex.read j = (format x)[j]?
  /-- Every byte of the message is there (rule R61). -/
  msgPresent : s.msg.presentBelow s.msgLen
  /-- CI is at most CU_COUNT (rule R56). -/
  ciLe : s.ci ≤ s.cuCount.toNat
  /-- BYTE_LEN is at most three bytes for each code unit encoded (rule R12, rule R51). -/
  byteLenLe : s.byteLen.toNat ≤ 3 * s.ci
  /-- While the encoder runs, and when the padder starts, BYTE_LEN is the length of MSG (rule R152, rule R163). -/
  encodedLength : s.phase = 1#4 ∨ s.phase = 2#4 → s.msgLen = s.byteLen.toNat
  /-- Past the padder the message is a positive number of whole blocks (rule R186, rule R188). -/
  paddedBlocks : 3 ≤ s.phase.toNat → 1 ≤ s.nblk ∧ s.msgLen = 64 * s.nblk
  /-- BLK and NBLK keep their ranges (rule R56). -/
  blkLe : s.blk ≤ s.nblk
  nblkLe : s.nblk ≤ s.cfg.pmax / 64
  /-- Inside the compressor there is a block in progress (rule R224). -/
  blkLt : 3 ≤ s.phase.toNat → s.phase.toNat ≤ 6 → s.blk < s.nblk
  /-- The formatter runs after the last block (rule R224). -/
  blkDone : s.phase = 7#4 → s.blk = s.nblk
  /-- U_SCHED has written every word below T (rule R61). -/
  schedulePresent : s.phase = 3#4 → s.w.presentBelow s.t.val
  /-- From U_COPY to U_FOLD the schedule is whole (rule R61). -/
  scheduleWhole : 4 ≤ s.phase.toNat → s.phase.toNat ≤ 6 → s.w.presentBelow 64
  /-- The working variables are there from U_COPY on (rule R61). -/
  varsPresent : s.phase = 5#4 ∨ s.phase = 6#4 → s.vars.isSome = true

/-- The moves of the host that make one hash call of a text, up to RUN (rule R383, steps 1 to 3). -/
def callMoves (c : List CodeUnit) : List Move :=
  [.command 0x10000000#32] ++ c.map (fun u => .command (0x2000#16 ++ u)) ++ [.command 0x30000000#32]

/-- A move that rule R296 allows while a call runs: a step of the sequencer, or the host reading STATUS or CU_COUNT. -/
def Move.allowedInCall : Move → Bool
  | .sequencer => true
  | .command w => w == 0x60000000#32 || w == 0x60000001#32
  | .reset => false
  | .poll => false

/-- The outcome of a call that rule R296 states: DONE with the digest of the text, or ERROR at the first unpaired
surrogate. -/
def callResult (c : List CodeUnit) (t : State) : Prop :=
  match encodeText c with
  | .ok m =>
    t.state = .done ∧ t.err = .none ∧ t.hs = some (compressAll (pad m)) ∧ t.byteLen.toNat = m.length ∧
      ∃ digest, hashText c = .ok digest ∧ ∀ j < 64, t.hex.read j = digest[j]?
  | .error p => t.state = .error ∧ t.err = .malformed ∧ t.errPos.toNat = p

end Sys2Proof.Machine
end

