-- ==== Sys2Proof/Certificates/Slice0/Obligations.lean ====
section
/-! DEFINITION. The statements for the provers. Each docstring names the rule it formalises. -/

open Sys2Proof Sys2Proof.Machine

/-! ### Reset -/

/-- The reset values (rule R60): STATE IDLE, ERR NONE, STATUS 0, every counter 0, and the whole datapath absent. -/
def Obligations.ResetLeavesTheStatedValues : Prop :=
  State.reset.state = .idle ∧ State.reset.err = .none ∧ State.reset.status = 0#32 ∧ State.reset.cuCount = 0#32 ∧
  State.reset.errPos = 0#32 ∧ State.reset.byteLen = 0#32 ∧ State.reset.phase = 0#4 ∧ State.reset.ci = 0 ∧
  State.reset.t = 0 ∧ State.reset.blk = 0 ∧ State.reset.nblk = 0 ∧ State.reset.msgLen = 0 ∧
  State.reset.hs = none ∧ State.reset.vars = none ∧
  ∀ i, State.reset.w.read i = none ∧ State.reset.cu.read i = none ∧ State.reset.msg.read i = none ∧
    State.reset.hex.read i = none

/-- The reset event (rule R380), from every state: in one step every piece of state has its reset value, there is no
response, and no result or error of an abandoned call can be read. -/
def Obligations.ResetEventAbandonsTheCall : Prop :=
  ∀ (s : State) (rest : List Move), s.moves = .reset :: rest →
    ∃ t, step s = .next t ∧ t.responses = s.responses ∧
      t.state = .idle ∧ t.err = .none ∧ t.phase = 0#4 ∧ t.cuCount = 0#32 ∧ t.errPos = 0#32 ∧ t.byteLen = 0#32 ∧
      t.ci = 0 ∧ t.t = 0 ∧ t.blk = 0 ∧ t.nblk = 0 ∧ t.msgLen = 0 ∧ t.hs = none ∧ t.vars = none ∧
      (∀ i, t.w.read i = none ∧ t.cu.read i = none ∧ t.msg.read i = none ∧ t.hex.read i = none) ∧
      (∀ k, exec (.rdword k) t = .next (t.respond .badState 0#32)) ∧
      (∀ j, exec (.rdchar j) t = .next (t.respond .badState 0#32)) ∧
      exec .rdregErrpos t = .next (t.respond .badState 0#32) ∧
      exec .rdregByteLen t = .next (t.respond .badState 0#32)

/-- After reset the block is in IDLE and the sequencer has no step, and the first command that changes state is START:
in IDLE every other command changes nothing but the responses, PUSH and RUN answering BAD_STATE (rule R381). -/
def Obligations.OnlyStartChangesAnIdleState : Prop :=
  State.reset.state = .idle ∧
  ∀ (s : State), s.state = .idle →
    sequencerStep s = .fault .notEnabled ∧
    (∀ i, i.isCommand = true → i ≠ .start → ∃ r, exec i s = .next { s with responses := s.responses ++ [r] }) ∧
    (∀ u, exec (.push u) s = .next (s.respond .badState s.status)) ∧
    exec .run s = .next (s.respond .badState s.status)

/-! ### Decoding and the agents' steps -/

/-- Words written out bit by bit from rule R115 and rule R120 decode to the instructions they stand for, and three ILLEGAL
words are refused: `0x20010061`, rule R281's example, and `0x40000008` and `0x70000000`, rows 10 and 8 of vector V6. The
three names of the reasons are the model's choice (log entry 14): rule R116 has the one result ILLEGAL. -/
def Obligations.SampleWordsDecode : Prop :=
  decode (.command 0b00010000000000000000000000000000#32) = .ok .start ∧
  decode (.command 0b00100000000000001101100000111101#32) = .ok (.push 0xD83D#16) ∧
  decode (.command 0b00110000000000000000000000000000#32) = .ok .run ∧
  decode (.command 0b01000000000000000000000000000101#32) = .ok (.rdword 5#3) ∧
  decode (.command 0b01010000000000000000000000101010#32) = .ok (.rdchar 42#6) ∧
  decode (.command 0b01100000000000000000000000000010#32) = .ok .rdregErrpos ∧
  decode (.phase 0b0101#4) = .ok .uRound ∧
  decode (.command 0x20010061#32) = .error .reservedNonzero ∧
  decode (.command 0x40000008#32) = .error .mbzNonzero ∧
  decode (.command 0x70000000#32) = .error .opcodeUnassigned

/-- Operand assembly (rule R112): the four operands are the bits the rule names, unsigned, and every operand value is a
legal command. -/
def Obligations.OperandsAreTheNamedBits : Prop :=
  ∀ (w : Word),
    (∀ u : BitVec 16, decode (.command w) = .ok (.push u) ↔ w.toNat = 0x20000000 + u.toNat) ∧
    (∀ k : BitVec 3, decode (.command w) = .ok (.rdword k) ↔ w.toNat = 0x40000000 + k.toNat) ∧
    (∀ j : BitVec 6, decode (.command w) = .ok (.rdchar j) ↔ w.toNat = 0x50000000 + j.toNat) ∧
    (decode (.command w) = .ok .rdregStatus ↔ w.toNat = 0x60000000) ∧
    (decode (.command w) = .ok .rdregCuCount ↔ w.toNat = 0x60000001) ∧
    (decode (.command w) = .ok .rdregErrpos ↔ w.toNat = 0x60000002) ∧
    (decode (.command w) = .ok .rdregByteLen ↔ w.toNat = 0x60000003)

/-- A word is ILLEGAL exactly when OPC is unassigned, RSV is not zero or a must-be-zero bit is set; an ILLEGAL word changes
no state and answers `(ILLEGAL, STATUS)` in every STATE (rule R116, rule R292). -/
def Obligations.IllegalWordsAnswerIllegal : Prop :=
  ∀ (w : Word),
    ((∃ e, decode (.command w) = .error e) ↔
      (w.extractLsb' 28 4 = 0#4 ∨ 7#4 ≤ w.extractLsb' 28 4) ∨ w.extractLsb' 16 12 ≠ 0#12 ∨
      ((w.extractLsb' 28 4 = 1#4 ∨ w.extractLsb' 28 4 = 3#4) ∧ w.extractLsb' 0 16 ≠ 0#16) ∨
      (w.extractLsb' 28 4 = 4#4 ∧ w.extractLsb' 3 13 ≠ 0#13) ∨
      (w.extractLsb' 28 4 = 5#4 ∧ w.extractLsb' 6 10 ≠ 0#10) ∨
      (w.extractLsb' 28 4 = 6#4 ∧ w.extractLsb' 2 14 ≠ 0#14)) ∧
    ((∃ e, decode (.command w) = .error e) →
      ∀ s, hostStep w s = .next { s with responses := s.responses ++ [⟨.illegal, s.status⟩] })

/-- Decoding the encoding of an instruction gives the instruction, for every instruction and every operand, and the code
passes the checks of rule R116 and rule R120. -/
def Obligations.DecodeOfEncode : Prop :=
  ∀ (i : Instr), (encode i).wellFormed = true ∧ decode (encode i) = .ok i

/-- Every code has at most one spelling: what decodes to an instruction is the code the instruction encodes to (rule
R117: every word is one legal command or ILLEGAL). -/
def Obligations.EncodeOfDecode : Prop :=
  ∀ (c : Code) (i : Instr), decode c = .ok i → encode i = c

/-- The decoder of rule R119 accepts exactly the codes that pass the mask checks of rule R115 and rule R116. -/
def Obligations.DecoderAcceptsTheWellFormed : Prop :=
  ∀ (c : Code), c.wellFormed = true ↔ ∃ i, decode c = .ok i

/-- A step on a command move whose word decodes to `i` is `exec i`, on the state with the move taken off (rule R280). -/
def Obligations.StepRunsTheDecodedCommand : Prop :=
  ∀ (s : State) (w : Word) (rest : List Move) (i : Instr),
    s.moves = .command w :: rest → decode (.command w) = .ok i → step s = exec i { s with moves := rest }

/-- A step of the sequencer, by its own move or because the host issues nothing more, is `exec` of the micro-operation
that PHASE selects (rule R54, rule R120). That the sequencer is next when no move is left is the model's choice (log entry
4). -/
def Obligations.StepRunsTheMicroOperation : Prop :=
  ∀ (s : State) (i : Instr), s.state = .busy → decode (.phase s.phase) = .ok i →
    (s.moves = [] → step s = exec i s) ∧
    (∀ rest, s.moves = .sequencer :: rest → step s = exec i { s with moves := rest })

/-- The placement the host asks about: a table row's command word is run by the very next step, whatever the state. How
a row's word is placed is the model's choice (log entry 14). -/
def Obligations.PlacedCommandRunsNext : Prop :=
  ∀ (s : State) (nbits w : Nat) (i : Instr), 32 ≤ nbits → decodeTableWord nbits w = some i →
    step (s.withFetchWord nbits w) = exec i s

/-- The sequencer has a step exactly when STATE is BUSY, and it is the micro-operation that PHASE selects (rule R54). A
micro-operation in another STATE or with another PHASE has no step. -/
def Obligations.SequencerStepsOnlyWhenBusy : Prop :=
  ∀ (s : State),
    (∀ i, s.state = .busy → decode (.phase s.phase) = .ok i → sequencerStep s = exec i s) ∧
    (s.state ≠ .busy → sequencerStep s = .fault .notEnabled) ∧
    (∀ i, i.isCommand = false → ¬(s.state = .busy ∧ encode i = .phase s.phase) → exec i s = .fault .notEnabled)

/-- PHASE 8 to 15 stops the machine by name (rule R120's last row). -/
def Obligations.PhaseNeverHeldFaults : Prop :=
  ∀ (s : State), s.state = .busy → 8 ≤ s.phase.toNat → sequencerStep s = .fault .phaseNeverHeld

/-- The POLL loop (rule R123): one RDREG STATUS; while the answer is BUSY it goes round again, and otherwise it ends. That
the sequencer takes one step between two polls is the model's choice (log entry 5). -/
def Obligations.PollAsksUntilNotBusy : Prop :=
  ∀ (s : State) (rest : List Move), s.moves = .poll :: rest →
    step s = .next { s with
      responses := s.responses ++ [⟨.ok, s.status⟩]
      moves := if s.state = .busy then .sequencer :: .poll :: rest else rest }

/-! ### The host commands -/

/-- The acceptance table (rule R294), cell by cell, and what a rejection does (rule R293). -/
def Obligations.AcceptanceTable : Prop :=
  ∀ (i : Instr) (s : State), i.isCommand = true →
    let acceptedIn : List StateCode := match i with
      | .start => [.idle, .load, .done, .error]
      | .push _ => [.load]
      | .run => [.load]
      | .rdword _ => [.done]
      | .rdchar _ => [.done]
      | .rdregStatus => [.idle, .load, .busy, .done, .error]
      | .rdregCuCount => [.idle, .load, .busy, .done, .error]
      | .rdregErrpos => [.error]
      | .rdregByteLen => [.done]
      | .uEnc | .uPad | .uSched | .uCopy | .uRound | .uFold | .uFmt => []
    (s.state ∉ acceptedIn → exec i s = .next { s with responses := s.responses ++ [⟨.badState, s.status⟩] }) ∧
    (s.state ∈ acceptedIn → ∀ t, exec i s = .next t →
      ∃ d, t.lastResponse = some ⟨.ok, d⟩ ∨ (t.lastResponse = some ⟨.overflow, d⟩ ∧ ∃ u, i = .push u))

/-- START: its word, the effect of rule R282's pseudocode outside BUSY, and BAD_STATE in BUSY. That every other field, the
stale W, a..h, CU, HEX and bytes of MSG among them, keeps its value is the model's choice (log entry 13: entry U11 leaves
these contents any value). -/
def Obligations.StartBeginsACall : Prop :=
  encode .start = .command 0x10000000#32 ∧ acceptedOnlyIn .start [.idle, .load, .done, .error] ∧
  ∀ (s : State), s.state ≠ .busy →
    exec .start s = .next { s with
      hs := some ⟨0x6a09e667#32, 0xbb67ae85#32, 0x3c6ef372#32, 0xa54ff53a#32,
                  0x510e527f#32, 0x9b05688c#32, 0x1f83d9ab#32, 0x5be0cd19#32⟩
      cuCount := 0#32, err := .none, errPos := 0#32, byteLen := 0#32, msgLen := 0, ci := 0, t := 0, blk := 0
      nblk := 0, phase := 0#4, state := .load
      responses := s.responses ++ [⟨.ok, 0x00000001#32⟩] }

/-- PUSH with room in the buffer (rule R283): the code unit lands at index CU_COUNT, CU_COUNT grows by one, every other
entry of CU and every other field keeps its value, and the answer is OK with STATUS 1 where ERR is NONE, as it is in LOAD
(rule R48). Its word is `0x2000uuuu`, and it is accepted in LOAD only. -/
def Obligations.PushAppendsTheCodeUnit : Prop :=
  ∀ (u : CodeUnit), encode (.push u) = .command (0x2000#16 ++ u) ∧ acceptedOnlyIn (.push u) [.load] ∧
    ∀ (s : State), s.state = .load → s.err = .none → s.cuCount.toNat ≠ s.cfg.maxCu →
      ∃ t, exec (.push u) s = .next t ∧ t.cu.read s.cuCount.toNat = some u ∧
        (∀ j, j ≠ s.cuCount.toNat → t.cu.read j = s.cu.read j) ∧
        t = { s with cu := t.cu, cuCount := s.cuCount + 1#32, responses := s.responses ++ [⟨.ok, 0x00000001#32⟩] }

/-- PUSH on a full buffer (rule R284): nothing is stored, the sticky OVERFLOW error is entered (rule R342) and the answer
is `(OVERFLOW, 0x24)`. -/
def Obligations.PushOnAFullBufferOverflows : Prop :=
  ∀ (s : State) (u : CodeUnit), s.state = .load → s.cuCount.toNat = s.cfg.maxCu →
    exec (.push u) s = .next { s with
      state := .error, err := .overflow, errPos := s.cuCount, phase := 0#4
      responses := s.responses ++ [⟨.overflow, 0x00000024#32⟩] }

/-- RUN: its word, accepted in LOAD only; there, by rule R285's pseudocode, the message is emptied, the sequencer starts at
U_ENC, and the answer is OK with STATUS 2 where ERR is NONE, as it is in LOAD (rule R48). That every other field, the stale
W, a..h, HEX and bytes of MSG among them, keeps its value is the model's choice (log entry 13: entry U11 leaves these
contents any value). -/
def Obligations.RunStartsTheSequencer : Prop :=
  encode .run = .command 0x30000000#32 ∧ acceptedOnlyIn .run [.load] ∧
  ∀ (s : State), s.state = .load → s.err = .none →
    exec .run s = .next { s with
      msgLen := 0, byteLen := 0#32, ci := 0, state := .busy, phase := 1#4
      responses := s.responses ++ [⟨.ok, 0x00000002#32⟩] }

/-- RDWORD (rule R286): its word, accepted in DONE only; there the answer is `HS[k]`, and nothing else changes. -/
def Obligations.RdwordAnswersTheHashWord : Prop :=
  ∀ (k : BitVec 3), encode (.rdword k) = .command (0x4000#16 ++ k.setWidth 16) ∧ acceptedOnlyIn (.rdword k) [.done] ∧
    ∀ (s : State) (x : HashWords) (v : Word), s.state = .done → s.hs = some x →
      [x.h0, x.h1, x.h2, x.h3, x.h4, x.h5, x.h6, x.h7][k.toNat]? = some v →
      exec (.rdword k) s = .next { s with responses := s.responses ++ [⟨.ok, v⟩] }

/-- RDCHAR (rule R287): its word, accepted in DONE only; there the answer is `HEX[j]`, zero-extended, and nothing else
changes. -/
def Obligations.RdcharAnswersTheCharacter : Prop :=
  ∀ (j : BitVec 6), encode (.rdchar j) = .command (0x5000#16 ++ j.setWidth 16) ∧ acceptedOnlyIn (.rdchar j) [.done] ∧
    ∀ (s : State) (b : Byte), s.state = .done → s.hex.read j.toNat = some b →
      exec (.rdchar j) s = .next { s with responses := s.responses ++ [⟨.ok, b.setWidth 32⟩] }

/-- The four RDREG reads (rule R288 to rule R291): their words; the register's value where it is readable, BAD_STATE where it
is not, and nothing else changes. -/
def Obligations.RdregAnswersTheRegister : Prop :=
  encode .rdregStatus = .command 0x60000000#32 ∧ encode .rdregCuCount = .command 0x60000001#32 ∧
  encode .rdregErrpos = .command 0x60000002#32 ∧ encode .rdregByteLen = .command 0x60000003#32 ∧
  ∀ (s : State),
    exec .rdregStatus s = .next { s with responses := s.responses ++ [⟨.ok, s.status⟩] } ∧
    exec .rdregCuCount s = .next { s with responses := s.responses ++ [⟨.ok, s.cuCount⟩] } ∧
    exec .rdregErrpos s = .next { s with responses := s.responses ++
      [if s.state = .error then ⟨.ok, s.errPos⟩ else ⟨.badState, s.status⟩] } ∧
    exec .rdregByteLen s = .next { s with responses := s.responses ++
      [if s.state = .done then ⟨.ok, s.byteLen⟩ else ⟨.badState, s.status⟩] }

/-- The STATUS word (rule R46), with the codes of rule R47 and rule R48: its layout, its reset value, and its read, which
every STATE accepts and which changes nothing but the responses. -/
def Obligations.StatusWordLayout : Prop :=
  State.reset.status = 0x00000000#32 ∧
  ∀ (s : State),
    (s.status.extractLsb' 0 3).toNat =
      (match s.state with | .idle => 0 | .load => 1 | .busy => 2 | .done => 3 | .error => 4) ∧
    s.status.getLsbD 3 = false ∧
    (s.status.extractLsb' 4 4).toNat = (match s.err with | .none => 0 | .malformed => 1 | .overflow => 2) ∧
    s.status.extractLsb' 8 24 = 0#24 ∧
    exec .rdregStatus s = .next { s with responses := s.responses ++ [⟨.ok, s.status⟩] }

/-- Side effects and idempotence (rule R90): a read changes nothing but the responses and answers the same again; a second
START outside BUSY leaves the state of the first; an accepted PUSH appends each time; RUN in BUSY changes nothing. -/
def Obligations.ReadsAreIdempotentAndPushIsNot : Prop :=
  (∀ (i : Instr), (∃ k, i = .rdword k) ∨ (∃ j, i = .rdchar j) ∨
      i ∈ [Instr.rdregStatus, Instr.rdregCuCount, Instr.rdregErrpos, Instr.rdregByteLen] →
    ∀ (s t : State), exec i s = .next t → t = { s with responses := t.responses } ∧
      ∃ u, exec i t = .next u ∧ u = { s with responses := u.responses } ∧ u.lastResponse = t.lastResponse) ∧
  (∀ (s t : State), s.state ≠ .busy → exec .start s = .next t →
    exec .start t = .next { t with responses := t.responses ++ [⟨.ok, 0x00000001#32⟩] }) ∧
  (∀ (s t : State) (v : CodeUnit), s.state = .load → s.cuCount.toNat < s.cfg.maxCu → s.cfg.Legal →
    exec (.push v) s = .next t → t.cuCount.toNat = s.cuCount.toNat + 1) ∧
  (∀ (s : State), s.state = .busy → exec .run s = .next { s with responses := s.responses ++ [⟨.badState, s.status⟩] })

/-! ### The encoder -/

/-- U_ENC at the end of the input (rule R152): nothing is emitted and PHASE is U_PAD. In a state that meets the invariant,
`len(MSG)` is then BYTE_LEN. -/
def Obligations.EncoderHandsOverAtTheEnd : Prop :=
  ∀ (s : State), s.state = .busy → s.phase = 1#4 → s.ci = s.cuCount.toNat →
    exec .uEnc s = .next { s with phase := 2#4 } ∧ (MachineInv s → s.msgLen = s.byteLen.toNat)

/-- emit1 (rule R154): a code unit below 0x80 is appended as one byte. Every other byte of MSG and every other field
keeps its value. -/
def Obligations.EncoderEmitsOneByte : Prop :=
  ∀ (s : State) (u : CodeUnit), s.state = .busy → s.phase = 1#4 → s.ci < s.cuCount.toNat →
    s.cu.read s.ci = some u → u.toNat < 0x80 →
    ∃ t, exec .uEnc s = .next t ∧ t.msg.read s.msgLen = some (u.extractLsb' 0 8) ∧
      (∀ j, j ≠ s.msgLen → t.msg.read j = s.msg.read j) ∧
      t = { s with msg := t.msg, msgLen := s.msgLen + 1, byteLen := s.byteLen + 1#32, ci := s.ci + 1 }

/-- emit2 (rule R155): a code unit in 0x80..0x7FF is appended as two bytes, the first in 0xC2..0xDF. -/
def Obligations.EncoderEmitsTwoBytes : Prop :=
  ∀ (s : State) (u : CodeUnit), s.state = .busy → s.phase = 1#4 → s.ci < s.cuCount.toNat →
    s.cu.read s.ci = some u → 0x80 ≤ u.toNat → u.toNat < 0x800 →
    ∃ t b0 b1, exec .uEnc s = .next t ∧
      b0.toNat = (0xC0 ||| (u.toNat >>> 6)) ∧ b1.toNat = (0x80 ||| (u.toNat &&& 0x3F)) ∧
      0xC2 ≤ b0.toNat ∧ b0.toNat ≤ 0xDF ∧
      t.msg.read s.msgLen = some b0 ∧ t.msg.read (s.msgLen + 1) = some b1 ∧
      (∀ j, j < s.msgLen ∨ s.msgLen + 2 ≤ j → t.msg.read j = s.msg.read j) ∧
      t = { s with msg := t.msg, msgLen := s.msgLen + 2, byteLen := s.byteLen + 2#32, ci := s.ci + 1 }

/-- emit3 (rule R156): a code unit from 0x800 on that is no surrogate is appended as three bytes. -/
def Obligations.EncoderEmitsThreeBytes : Prop :=
  ∀ (s : State) (u : CodeUnit), s.state = .busy → s.phase = 1#4 → s.ci < s.cuCount.toNat →
    s.cu.read s.ci = some u → 0x800 ≤ u.toNat → u.toNat < 0xD800 ∨ 0xDFFF < u.toNat →
    ∃ t b0 b1 b2, exec .uEnc s = .next t ∧
      b0.toNat = (0xE0 ||| (u.toNat >>> 12)) ∧ b1.toNat = (0x80 ||| ((u.toNat >>> 6) &&& 0x3F)) ∧
      b2.toNat = (0x80 ||| (u.toNat &&& 0x3F)) ∧
      t.msg.read s.msgLen = some b0 ∧ t.msg.read (s.msgLen + 1) = some b1 ∧ t.msg.read (s.msgLen + 2) = some b2 ∧
      (∀ j, j < s.msgLen ∨ s.msgLen + 3 ≤ j → t.msg.read j = s.msg.read j) ∧
      t = { s with msg := t.msg, msgLen := s.msgLen + 3, byteLen := s.byteLen + 3#32, ci := s.ci + 1 }

/-- A surrogate pair (rule R157, rule R158, rule R159): its code point lies in 0x10000..0x10FFFF, is appended as four bytes,
and CI moves past both code units. -/
def Obligations.EncoderEmitsAPair : Prop :=
  ∀ (s : State) (u v : CodeUnit), s.state = .busy → s.phase = 1#4 → s.ci + 1 < s.cuCount.toNat →
    s.cu.read s.ci = some u → s.cu.read (s.ci + 1) = some v →
    0xD800 ≤ u.toNat → u.toNat ≤ 0xDBFF → 0xDC00 ≤ v.toNat → v.toNat ≤ 0xDFFF →
    ∃ t cp b0 b1 b2 b3, exec .uEnc s = .next t ∧
      cp = 0x10000 + (((u.toNat &&& 0x3FF) <<< 10) ||| (v.toNat &&& 0x3FF)) ∧ 0x10000 ≤ cp ∧ cp ≤ 0x10FFFF ∧
      b0.toNat = (0xF0 ||| (cp >>> 18)) ∧ b1.toNat = (0x80 ||| ((cp >>> 12) &&& 0x3F)) ∧
      b2.toNat = (0x80 ||| ((cp >>> 6) &&& 0x3F)) ∧ b3.toNat = (0x80 ||| (cp &&& 0x3F)) ∧
      t.msg.read s.msgLen = some b0 ∧ t.msg.read (s.msgLen + 1) = some b1 ∧
      t.msg.read (s.msgLen + 2) = some b2 ∧ t.msg.read (s.msgLen + 3) = some b3 ∧
      (∀ j, j < s.msgLen ∨ s.msgLen + 4 ≤ j → t.msg.read j = s.msg.read j) ∧
      t = { s with msg := t.msg, msgLen := s.msgLen + 4, byteLen := s.byteLen + 4#32, ci := s.ci + 2 }

/-- The three unpaired surrogates (rule R160, rule R161, rule R162): each enters the sticky error state with MALFORMED and
ERRPOS = CI, and changes nothing else (rule R342). -/
def Obligations.UnpairedSurrogatesAreMalformed : Prop :=
  ∀ (s : State) (u : CodeUnit), s.state = .busy → s.phase = 1#4 → s.ci < s.cuCount.toNat → s.cu.read s.ci = some u →
    (0xD800 ≤ u.toNat ∧ u.toNat ≤ 0xDBFF ∧ s.ci + 1 = s.cuCount.toNat) ∨
    (0xD800 ≤ u.toNat ∧ u.toNat ≤ 0xDBFF ∧ s.ci + 1 ≠ s.cuCount.toNat ∧
      ∃ v : CodeUnit, s.cu.read (s.ci + 1) = some v ∧ (v.toNat < 0xDC00 ∨ 0xDFFF < v.toNat)) ∨
    (0xDC00 ≤ u.toNat ∧ u.toNat ≤ 0xDFFF) →
    exec .uEnc s = .next { s with state := .error, err := .malformed, errPos := BitVec.ofNat 32 s.ci, phase := 0#4 }

/-- The encoder as a function returns the standard UTF-8 bytes of every well-formed text (rule R164): the text's UTF-16 code
units go in, and what comes out is what the Lean library's own UTF-8 encoder gives for its characters. -/
def Obligations.EncodeTextIsStandardUtf8 : Prop :=
  ∀ (text : List Char),
    encodeText (text.flatMap utf16) = .ok ((text.flatMap String.utf8EncodeChar).map UInt8.toBitVec)

/-! ### The padder -/

/-- The padded length (rule R182, rule R187, rule R188): both forms agree, `8L + 65` is no multiple of 512, it is the least
multiple of 64 with room for the marker and the length field, it is at least one block, and it covers one more block than
the text's last one exactly when the text leaves no room there. -/
def Obligations.PaddedLengthIsLeast : Prop :=
  ∀ (len : Nat), paddedLength len = 64 * ((8 * len + 65 + 511) / 512) ∧ (8 * len + 65) % 512 ≠ 0 ∧
    paddedLength len = 64 * ((len + 9 + 63) / 64) ∧ len + 9 ≤ paddedLength len ∧
    (∀ p, p % 64 = 0 → len + 9 ≤ p → paddedLength len ≤ p) ∧
    paddedLength len % 64 = 0 ∧ 1 ≤ paddedLength len / 64 ∧
    (paddedLength len = 64 * (len / 64 + 2) ↔ 56 ≤ len % 64) ∧ (paddedLength len = 64 * (len / 64 + 1) ↔ len % 64 < 56)

/-- U_PAD (rule R181, rule R183, rule R184, rule R186): the marker at offset L, the zeros to P - 9, at most 63 of them, the
64-bit big-endian bit length in the last 8 bytes, and every other byte of MSG and every other field unchanged. The premise
of the length bytes is the bound of rule R12. -/
def Obligations.PadderWritesMarkerZerosAndLength : Prop :=
  selectedBy .uPad 2#4 ∧
  ∀ (s : State), s.state = .busy → s.phase = 2#4 →
    ∃ t, exec .uPad s = .next t ∧
      t = { s with msg := t.msg, msgLen := 64 * ((8 * s.msgLen + 1 + 64 + 511) / 512)
                   nblk := (8 * s.msgLen + 1 + 64 + 511) / 512, blk := 0, t := 0, phase := 3#4 } ∧
      t.msg.read s.msgLen = some 0x80#8 ∧
      s.msgLen + 9 ≤ t.msgLen ∧ t.msgLen - s.msgLen - 9 ≤ 63 ∧
      (∀ j, s.msgLen + 1 ≤ j → j ≤ t.msgLen - 9 → t.msg.read j = some 0x00#8) ∧
      (8 * s.msgLen < 2 ^ 64 → ∀ j < 8,
        t.msg.read (t.msgLen - 8 + j) = some (BitVec.ofNat 8 (8 * s.msgLen / 256 ^ (7 - j)))) ∧
      (∀ j, j < s.msgLen ∨ t.msgLen ≤ j → t.msg.read j = s.msg.read j)

/-- The padder as a function (rule R189): it is what U_PAD writes over a message, and it has the rule's four properties, the
length field read big-endian. The premise is the bound of rule R12. -/
def Obligations.PadHasItsFourProperties : Prop :=
  ∀ (m : List Byte), 8 * m.length < 2 ^ 64 →
    (pad m).length = 64 * ((8 * m.length + 65 + 511) / 512) ∧ (pad m).take m.length = m ∧
    (pad m)[m.length]? = some 0x80#8 ∧
    ((pad m).drop ((pad m).length - 8)).foldl (fun n (b : Byte) => 256 * n + b.toNat) 0 = 8 * m.length ∧
    ∀ (s : State), s.state = .busy → s.phase = 2#4 → m.length = s.msgLen → (∀ j < m.length, s.msg.read j = m[j]?) →
      ∃ t, exec .uPad s = .next t ∧ t.msgLen = (pad m).length ∧ ∀ j < (pad m).length, t.msg.read j = (pad m)[j]?

/-! ### The compressor -/

/-- The word functions, bit by bit (rule R200, rule R202, rule R203, rule R205 to rule R210): addition wraps; rotation takes bit
`(i + n) mod 32`; the shift brings in zeros; and each of S0, S1, s0, s1, ch and maj is the rule's combination of bits. -/
def Obligations.WordFunctionsBitByBit : Prop :=
  (∀ x y : Word, (add32 x y).toNat = (x.toNat + y.toNat) % 2 ^ 32) ∧
  (∀ (x : Word) (n i : Nat), n ≤ 31 → i < 32 → (rotr x n).getLsbD i = x.getLsbD ((i + n) % 32)) ∧
  (∀ (x : Word) (n i : Nat), n ≤ 31 → i < 32 →
    (shr x n).getLsbD i = if i + n < 32 then x.getLsbD (i + n) else false) ∧
  (∀ (x : Word) (i : Nat), i < 32 →
    (bigS0 x).getLsbD i = (x.getLsbD ((i + 2) % 32) ^^ x.getLsbD ((i + 13) % 32) ^^ x.getLsbD ((i + 22) % 32)) ∧
    (bigS1 x).getLsbD i = (x.getLsbD ((i + 6) % 32) ^^ x.getLsbD ((i + 11) % 32) ^^ x.getLsbD ((i + 25) % 32)) ∧
    (smallS0 x).getLsbD i = (x.getLsbD ((i + 7) % 32) ^^ x.getLsbD ((i + 18) % 32) ^^ x.getLsbD (i + 3)) ∧
    (smallS1 x).getLsbD i = (x.getLsbD ((i + 17) % 32) ^^ x.getLsbD ((i + 19) % 32) ^^ x.getLsbD (i + 10))) ∧
  (∀ (x y z : Word) (i : Nat), i < 32 →
    (ch x y z).getLsbD i = (if x.getLsbD i then y.getLsbD i else z.getLsbD i) ∧
    (maj x y z).getLsbD i = ((x.getLsbD i && y.getLsbD i) || (x.getLsbD i && z.getLsbD i) ||
      (y.getLsbD i && z.getLsbD i)))

/-- U_SCHED for T < 16 (rule R216): `W[T]` is the big-endian word of four message bytes, T grows by one, and nothing else
changes. NBLK is at least 1 past the padder (rule R188), and in a state that meets the invariant the four bytes lie below
`len(MSG)`. -/
def Obligations.ScheduleLoadsAMessageWord : Prop :=
  selectedBy .uSched 3#4 ∧
  (∀ (s : State), MachineInv s → s.state = .busy → s.phase = 3#4 → s.t.val ≤ 15 →
    64 * s.blk + 4 * s.t.val + 3 < s.msgLen) ∧
  ∀ (s : State) (b0 b1 b2 b3 : Byte), s.state = .busy → s.phase = 3#4 → 1 ≤ s.nblk → s.t.val ≤ 15 →
    64 * s.blk + 4 * s.t.val + 3 < s.msgLen →
    s.msg.read (64 * s.blk + 4 * s.t.val) = some b0 → s.msg.read (64 * s.blk + 4 * s.t.val + 1) = some b1 →
    s.msg.read (64 * s.blk + 4 * s.t.val + 2) = some b2 → s.msg.read (64 * s.blk + 4 * s.t.val + 3) = some b3 →
    ∃ t x, exec .uSched s = .next t ∧
      x.toNat = 2 ^ 24 * b0.toNat + 2 ^ 16 * b1.toNat + 2 ^ 8 * b2.toNat + b3.toNat ∧
      t.w.read s.t.val = some x ∧ (∀ j, j ≠ s.t.val → t.w.read j = s.w.read j) ∧ t.t.val = s.t.val + 1 ∧
      t = { s with w := t.w, t := t.t }

/-- U_SCHED for T >= 16 (rule R217, rule R218): `W[T]` is the expanded word; after T = 63 the phase is U_COPY with T = 0,
otherwise T grows by one; nothing else changes. -/
def Obligations.ScheduleExpandsByOneWord : Prop :=
  selectedBy .uSched 3#4 ∧
  ∀ (s : State) (w16 w15 w7 w2 : Word), s.state = .busy → s.phase = 3#4 → 1 ≤ s.nblk → 16 ≤ s.t.val →
    s.w.read (s.t.val - 16) = some w16 → s.w.read (s.t.val - 15) = some w15 →
    s.w.read (s.t.val - 7) = some w7 → s.w.read (s.t.val - 2) = some w2 →
    ∃ t, exec .uSched s = .next t ∧
      t.w.read s.t.val = some (w16 + (rotr w15 7 ^^^ rotr w15 18 ^^^ (w15 >>> 3)) + w7 +
        (rotr w2 17 ^^^ rotr w2 19 ^^^ (w2 >>> 10))) ∧
      (∀ j, j ≠ s.t.val → t.w.read j = s.w.read j) ∧
      (if s.t.val = 63 then t.t.val = 0 ∧ t.phase = 4#4 else t.t.val = s.t.val + 1 ∧ t.phase = 3#4) ∧
      t = { s with w := t.w, t := t.t, phase := t.phase }

/-- U_COPY (rule R219): a..h take HS[0..7], T is 0 and the phase is U_ROUND; nothing else changes. -/
def Obligations.CopyLoadsTheWorkingVariables : Prop :=
  selectedBy .uCopy 4#4 ∧
  ∀ (s : State) (x : HashWords), s.state = .busy → s.phase = 4#4 → s.hs = some x →
    exec .uCopy s = .next { s with vars := some ⟨x.h0, x.h1, x.h2, x.h3, x.h4, x.h5, x.h6, x.h7⟩, t := 0, phase := 5#4 }

/-- U_ROUND (rule R220, rule R221, rule R222): the eight new working variables, all computed from the values before the
round; after round 63 the phase is U_FOLD, otherwise T grows by one; nothing else changes. -/
def Obligations.RoundComputesTheWorkingVariables : Prop :=
  selectedBy .uRound 5#4 ∧
  ∀ (s : State) (v : WorkVars) (x : Word), s.state = .busy → s.phase = 5#4 → s.vars = some v →
    s.w.read s.t.val = some x →
    ∃ t, exec .uRound s = .next t ∧
      (let temp1 := v.h + (rotr v.e 6 ^^^ rotr v.e 11 ^^^ rotr v.e 25) + ((v.e &&& v.f) ^^^ (~~~v.e &&& v.g)) +
          kAt s.t + x
       let temp2 := (rotr v.a 2 ^^^ rotr v.a 13 ^^^ rotr v.a 22) + ((v.a &&& v.b) ^^^ (v.a &&& v.c) ^^^ (v.b &&& v.c))
       t.vars = some ⟨temp1 + temp2, v.a, v.b, v.c, v.d + temp1, v.e, v.f, v.g⟩) ∧
      (if s.t.val = 63 then t.t = s.t ∧ t.phase = 6#4 else t.t.val = s.t.val + 1 ∧ t.phase = 5#4) ∧
      t = { s with vars := t.vars, t := t.t, phase := t.phase }

/-- U_FOLD (rule R223, rule R224): each hash-state word grows by the working variable of its index, mod 2^32; BLK grows by one,
T is 0, and the phase is U_FMT after the last block and U_SCHED before; nothing else changes. -/
def Obligations.FoldAddsTheWorkingVariables : Prop :=
  selectedBy .uFold 6#4 ∧
  ∀ (s : State) (x : HashWords) (v : WorkVars), s.state = .busy → s.phase = 6#4 → s.hs = some x → s.vars = some v →
    exec .uFold s = .next { s with
      hs := some ⟨x.h0 + v.a, x.h1 + v.b, x.h2 + v.c, x.h3 + v.d, x.h4 + v.e, x.h5 + v.f, x.h6 + v.g, x.h7 + v.h⟩
      blk := s.blk + 1, t := 0, phase := if s.blk + 1 = s.nblk then 7#4 else 3#4 }

/-- The digest of "abc" (vector V4): the whole compression of the padded "abc" from IV gives the eight words the vector
lists. It checks the tables of rule R44 and rule R45 and the functions of rule R226 together. -/
def Obligations.AbcCompressesToItsDigest : Prop :=
  compressAll (pad [0x61#8, 0x62#8, 0x63#8]) =
    ⟨0xba7816bf#32, 0x8f01cfea#32, 0x414140de#32, 0x5dae2223#32, 0xb00361a3#32, 0x96177a9c#32, 0xb410ff61#32, 0xf20015ad#32⟩

/-- One block through the compressor (rule R215, rule R226), the host issuing nothing (log entry 4): 130 sequencer steps from U_SCHED with T = 0 leave
`HS = compress(HS, block)`, BLK one higher, and the phase of rule R224. -/
def Obligations.CompressorRunsOneBlock : Prop :=
  ∀ (s : State) (x : HashWords) (blk : List Byte), s.state = .busy → s.phase = 3#4 → s.t = 0 → s.moves = [] →
    s.hs = some x → s.blk < s.nblk → blk.length = 64 → 64 * s.blk + 64 ≤ s.msgLen →
    (∀ j < 64, s.msg.read (64 * s.blk + j) = blk[j]?) →
    ∃ t, Sys2Proof.core.run 130 s = .next t ∧ t.hs = some (compress x blk) ∧ t.blk = s.blk + 1 ∧ t.t = 0 ∧
      t.phase = (if s.blk + 1 = s.nblk then 7#4 else 3#4) ∧
      t = { s with hs := t.hs, vars := t.vars, w := t.w, t := t.t, blk := t.blk, phase := t.phase }

/-! ### The formatter -/

/-- U_FMT (rule R261, rule R262, rule R263, rule R264): `HEX[8k + j]` is the ASCII code of nibble j of `HS[k]`, most significant
first; STATE is DONE and PHASE 0; nothing else changes. -/
def Obligations.FormatterRendersTheDigest : Prop :=
  selectedBy .uFmt 7#4 ∧
  ∀ (s : State) (x : HashWords), s.state = .busy → s.phase = 7#4 → s.hs = some x →
    ∃ t, exec .uFmt s = .next t ∧
      (∀ (k j : Nat) (v : Word), [x.h0, x.h1, x.h2, x.h3, x.h4, x.h5, x.h6, x.h7][k]? = some v → j < 8 →
        ∃ b, t.hex.read (8 * k + j) = some b ∧
          b.toNat = (let nib := v.toNat / 2 ^ (28 - 4 * j) % 16
                     if nib ≤ 9 then 0x30 + nib else 0x61 + (nib - 10))) ∧
      (∀ i, 64 ≤ i → t.hex.read i = none) ∧
      t = { s with hex := t.hex, state := .done, phase := 0#4 }

/-- The formatter as a function (rule R265): the eight words in order, each as its eight digits, most significant first;
always 64 characters, each one of `0123456789abcdef`. -/
def Obligations.DigestStringIs64LowercaseHex : Prop :=
  ∀ (x : HashWords), (format x).length = 64 ∧
    (∀ b ∈ format x, (0x30 ≤ b.toNat ∧ b.toNat ≤ 0x39) ∨ (0x61 ≤ b.toNat ∧ b.toNat ≤ 0x66)) ∧
    ∀ (k j : Nat) (v : Word), [x.h0, x.h1, x.h2, x.h3, x.h4, x.h5, x.h6, x.h7][k]? = some v → j < 8 →
      ∃ b, (format x)[8 * k + j]? = some b ∧
        b.toNat = (let nib := v.toNat / 2 ^ (28 - 4 * j) % 16
                   if nib ≤ 9 then 0x30 + nib else 0x61 + (nib - 10))

/-! ### The whole machine -/

/-- The reset state meets the invariant. -/
def Obligations.ResetMeetsTheInvariant : Prop := MachineInv State.reset

/-- Every step of either agent keeps the invariant. -/
def Obligations.EveryStepKeepsTheInvariant : Prop :=
  ∀ (s t : State), MachineInv s → step s = .next t → MachineInv t

/-- From a state that meets the invariant no read of an absent value, no PHASE above 7, no read past CU_COUNT or len(MSG) and
no empty compression is ever reached: a step gives a next state, or it is the sequencer's turn outside BUSY (rule R54,
rule R61). -/
def Obligations.InvariantStatesNeverFault : Prop :=
  ∀ (s : State), MachineInv s → (∃ t, step s = .next t) ∨
    (step s = .fault .notEnabled ∧ s.state ≠ .busy ∧ (s.moves = [] ∨ ∃ rest, s.moves = .sequencer :: rest))

/-- The host observes nothing but its view (rule R58): in two states with the same parameters, the same view and the same
responses so far, every command word stops both or neither, and where it completes the responses and the views after it
are the same. -/
def Obligations.HostObservesOnlyItsView : Prop :=
  ∀ (s1 s2 : State) (w : Word), s1.cfg = s2.cfg → s1.hostView = s2.hostView → s1.responses = s2.responses →
    (∀ t1, hostStep w s1 = .next t1 →
      ∃ t2, hostStep w s2 = .next t2 ∧ t1.responses = t2.responses ∧ t1.hostView = t2.hostView) ∧
    (∀ f, hostStep w s1 = .fault f → hostStep w s2 = .fault f)

/-- The writers of the datapath and of CU_COUNT: HS is written only by START and U_FOLD, a..h only by U_COPY and U_ROUND, W only by
U_SCHED, CU only by PUSH, MSG only by U_ENC and U_PAD (its length also by START and RUN), HEX only by U_FMT, CU_COUNT only
by START and PUSH. -/
def Obligations.OnlyTheNamedWritersWrite : Prop :=
  ∀ (i : Instr) (s t : State), exec i s = .next t →
    (t.hs ≠ s.hs → i = .start ∨ i = .uFold) ∧
    (t.vars ≠ s.vars → i = .uCopy ∨ i = .uRound) ∧
    (t.w ≠ s.w → i = .uSched) ∧
    (t.cu ≠ s.cu → ∃ u, i = .push u) ∧
    (t.msg ≠ s.msg → i = .uEnc ∨ i = .uPad) ∧
    (t.msgLen ≠ s.msgLen → i = .start ∨ i = .run ∨ i = .uEnc ∨ i = .uPad) ∧
    (t.hex ≠ s.hex → i = .uFmt) ∧
    (t.cuCount ≠ s.cuCount → i = .start ∨ ∃ u, i = .push u) ∧
    t.cfg = s.cfg ∧ t.moves = s.moves

/-- The writers of STATE (rule R47's list): which instruction may move STATE from where to where. -/
def Obligations.StateFieldTransitions : Prop :=
  ∀ (i : Instr) (s t : State), exec i s = .next t → t.state ≠ s.state →
    (i = .start ∧ s.state ≠ .busy ∧ t.state = .load) ∨ (i = .run ∧ s.state = .load ∧ t.state = .busy) ∨
    ((∃ u, i = .push u) ∧ s.state = .load ∧ t.state = .error ∧ t.err = .overflow) ∨
    (i = .uEnc ∧ s.state = .busy ∧ t.state = .error ∧ t.err = .malformed) ∨
    (i = .uFmt ∧ s.state = .busy ∧ t.state = .done)

/-- The order of the stages (rule R57, rule R100): the PHASE a micro-operation leaves, by the PHASE it ran in; 0 is error
entry or the end of the call. -/
def Obligations.PhaseOrder : Prop :=
  ∀ (i : Instr) (s t : State), i.isCommand = false → exec i s = .next t →
    (s.phase.toNat, t.phase.toNat) ∈
      [(1, 1), (1, 2), (1, 0), (2, 3), (3, 3), (3, 4), (4, 5), (5, 5), (5, 6), (6, 3), (6, 7), (7, 0)]

/-- While BUSY no command disturbs the call and only reset cancels it (rule R386): a command other than RDREG 0 and RDREG 1 is
rejected, and after any host move but reset every field but the responses and the moves is as before. -/
def Obligations.BusyCallIsUndisturbed : Prop :=
  ∀ (s : State), s.state = .busy →
    (∀ i, i.isCommand = true → i ≠ .rdregStatus → i ≠ .rdregCuCount →
      exec i s = .next (s.respond .badState s.status)) ∧
    (∀ t m rest, s.moves = m :: rest → m ≠ .sequencer → m ≠ .reset → step s = .next t →
      t = { s with moves := t.moves, responses := t.responses })

/-- The only way out of ERROR is START, which clears ERR and ERRPOS and begins a new call, or reset (rule R351): any other move
leaves STATE, ERR and ERRPOS as they are. -/
def Obligations.ErrorIsLeftOnlyByStartOrReset : Prop :=
  ∀ (s t : State), s.state = .error → step s = .next t →
    (∃ rest, s.moves = .command 0x10000000#32 :: rest ∧ t.state = .load ∧ t.err = .none ∧ t.errPos = 0#32) ∨
    (∃ rest, s.moves = .reset :: rest ∧ t.state = .idle ∧ t.err = .none ∧ t.errPos = 0#32) ∨
    (t.state = .error ∧ t.err = s.err ∧ t.errPos = s.errPos)

/-- A read of a value that is absent, or outside the part of a buffer that may be read, stops by name (rule R61's
recommendation, entries U2, U9 and U18), each where an instruction reads it: the hash state (RDWORD, U_COPY, U_FOLD,
U_FMT), the hex buffer (RDCHAR), the code units (U_ENC, at CI and, after a high surrogate, at CI + 1), the message (U_SCHED
for T < 16, at the first of the four bytes that is absent or not below `len(MSG)`), the schedule (U_SCHED for T >= 16,
U_ROUND), the working variables (U_ROUND, U_FOLD), and a compressor given no block. -/
def Obligations.AbsentReadsFault : Prop :=
  ∀ (s : State),
    (s.state = .done → s.hs = none → ∀ k, exec (.rdword k) s = .fault (.absentRead .hs)) ∧
    (s.state = .done → ∀ j, s.hex.read j.toNat = none → exec (.rdchar j) s = .fault (.absentRead .hex)) ∧
    (s.state = .busy → s.phase = 1#4 → s.cuCount.toNat < s.ci → exec .uEnc s = .fault .cuBeyondCount) ∧
    (s.state = .busy → s.phase = 1#4 → s.ci < s.cuCount.toNat → s.cu.read s.ci = none →
      exec .uEnc s = .fault (.absentRead .cu)) ∧
    (s.state = .busy → s.phase = 1#4 → s.ci + 1 < s.cuCount.toNat →
      ∀ u, s.cu.read s.ci = some u → 0xD800 ≤ u.toNat → u.toNat ≤ 0xDBFF → s.cu.read (s.ci + 1) = none →
      exec .uEnc s = .fault (.absentRead .cu)) ∧
    (s.state = .busy → s.phase = 3#4 → s.nblk = 0 → exec .uSched s = .fault .zeroBlocks) ∧
    (s.state = .busy → s.phase = 3#4 → s.nblk ≠ 0 → s.t.val ≤ 15 → ∀ k < 4,
      (∀ i < k, 64 * s.blk + 4 * s.t.val + i < s.msgLen ∧ s.msg.read (64 * s.blk + 4 * s.t.val + i) ≠ none) →
      (s.msgLen ≤ 64 * s.blk + 4 * s.t.val + k → exec .uSched s = .fault .msgBeyondLength) ∧
      (64 * s.blk + 4 * s.t.val + k < s.msgLen → s.msg.read (64 * s.blk + 4 * s.t.val + k) = none →
        exec .uSched s = .fault (.absentRead .msg))) ∧
    (s.state = .busy → s.phase = 3#4 → s.nblk ≠ 0 → 16 ≤ s.t.val →
      (∃ d ∈ [16, 15, 7, 2], s.w.read (s.t.val - d) = none) → exec .uSched s = .fault (.absentRead .w)) ∧
    (s.state = .busy → s.phase = 4#4 → s.hs = none → exec .uCopy s = .fault (.absentRead .hs)) ∧
    (s.state = .busy → s.phase = 5#4 → s.vars = none → exec .uRound s = .fault (.absentRead .vars)) ∧
    (s.state = .busy → s.phase = 5#4 → s.vars ≠ none → s.w.read s.t.val = none →
      exec .uRound s = .fault (.absentRead .w)) ∧
    (s.state = .busy → s.phase = 6#4 → s.hs = none → exec .uFold s = .fault (.absentRead .hs)) ∧
    (s.state = .busy → s.phase = 6#4 → s.hs ≠ none → s.vars = none → exec .uFold s = .fault (.absentRead .vars)) ∧
    (s.state = .busy → s.phase = 7#4 → s.hs = none → exec .uFmt s = .fault (.absentRead .hs))

/-- The commands implement `hash`, for a text that fits (rule R296, rule R392): from any state with a legal parameter that is not
BUSY, START, the PUSHes and RUN, and then any interleaving of the sequencer with reads of STATUS and CU_COUNT that holds
exactly the call's number of sequencer steps, end in DONE with the digest, the hash state and the byte length of the
text, or in ERROR at the first unpaired surrogate. -/
def Obligations.HashCallMeetsTheContract : Prop :=
  ∀ (s : State) (c : List CodeUnit) (during : List Move), s.cfg.Legal → s.state ≠ .busy → c.length ≤ s.cfg.maxCu →
    during.all Move.allowedInCall = true → during.count .sequencer = callSteps c → s.moves = callMoves c ++ during →
    ∃ t, Sys2Proof.core.run (c.length + 2 + during.length) s = .next t ∧ callResult c t

/-- The interleaving decides nothing but the answers to STATUS (rule R297): two calls of the same text from the same state,
under two interleavings that each hold the call's number of sequencer steps, end in states that differ in the responses
alone; START, the PUSHes and RUN give the same responses; a read of CU_COUNT answers the length of the text; and a read of
STATUS answers BUSY or the final STATUS. -/
def Obligations.InterleavingsGiveOneResult : Prop :=
  ∀ (s : State) (c : List CodeUnit) (d1 d2 : List Move), s.cfg.Legal → s.state ≠ .busy → c.length ≤ s.cfg.maxCu →
    d1.all Move.allowedInCall = true → d1.count .sequencer = callSteps c →
    d2.all Move.allowedInCall = true → d2.count .sequencer = callSteps c →
    ∃ (t1 t2 : State) (r1 : List Response), Sys2Proof.core.run (c.length + 2 + d1.length) { s with moves := callMoves c ++ d1 } = .next t1 ∧
      Sys2Proof.core.run (c.length + 2 + d2.length) { s with moves := callMoves c ++ d2 } = .next t2 ∧
      t1 = { t2 with responses := t1.responses } ∧
      t1.responses = s.responses ++ List.replicate (c.length + 1) ⟨.ok, 0x00000001#32⟩ ++ [⟨.ok, 0x00000002#32⟩] ++ r1 ∧
      r1.length = d1.length - callSteps c ∧
      ∀ j : Nat, ((d1.filter (· ≠ .sequencer))[j]? = some (Move.command 0x60000001#32) →
          r1[j]? = some (Response.mk .ok (BitVec.ofNat 32 c.length))) ∧
        ((d1.filter (· ≠ .sequencer))[j]? = some (Move.command 0x60000000#32) →
          r1[j]? = some (Response.mk .ok 0x00000002#32) ∨ r1[j]? = some (Response.mk .ok t1.status))

/-- A host that polls ends its call (rule R385, rule R390): with one sequencer step between two polls, the fairness of the
model (log entry 5), the call of a text that fits is over after a number of steps known in advance, and the last poll has
seen DONE or ERROR. -/
def Obligations.PolledCallEnds : Prop :=
  ∀ (s : State) (c : List CodeUnit), s.cfg.Legal → s.state ≠ .busy → c.length ≤ s.cfg.maxCu →
    s.moves = callMoves c ++ [.poll] →
    ∃ t, Sys2Proof.core.run (c.length + 2 + (2 * callSteps c + 1)) s = .next t ∧ t.moves = [] ∧ callResult c t ∧
      t.lastResponse = some ⟨.ok, t.status⟩ ∧ (t.state = .done ∨ t.state = .error)

/-- A text too long for the instance (rule R296's last sentence): PUSH number MAX_CU + 1 enters ERROR with OVERFLOW, and the
later PUSHes and RUN change nothing more; every one of them, and RUN, answers BAD_STATE with STATUS 0x24. -/
def Obligations.TooLongATextOverflows : Prop :=
  ∀ (s : State) (c : List CodeUnit), s.cfg.Legal → s.state ≠ .busy → s.cfg.maxCu < c.length → s.moves = callMoves c →
    ∃ t, Sys2Proof.core.run (c.length + 2) s = .next t ∧ t.state = .error ∧ t.err = .overflow ∧
      t.errPos.toNat = s.cfg.maxCu ∧ t.cuCount.toNat = s.cfg.maxCu ∧
      t.responses = s.responses ++ List.replicate (s.cfg.maxCu + 1) ⟨.ok, 0x00000001#32⟩ ++ [⟨.overflow, 0x00000024#32⟩] ++
        List.replicate (c.length - s.cfg.maxCu) ⟨.badState, 0x00000024#32⟩

/-! ### The host's notation -/

/-- The assembly examples of rule R122, and the UTF-16 splitting of PUSHS (rule R123). -/
def Obligations.AssemblyExamples : Prop :=
  assemble [['P', 'U', 'S', 'H', ' ', '0', 'x', '0', '0', '6', '1']] = some [.command 0x20000061#32] ∧
  assemble [['R', 'D', 'R', 'E', 'G', ' ', 'B', 'Y', 'T', 'E', '_', 'L', 'E', 'N']] = some [.command 0x60000003#32] ∧
  AsmLine.moves (.pushs ['a', Char.ofNat 0x1F600]) =
    [.command 0x20000061#32, .command 0x2000D83D#32, .command 0x2000DE00#32]
end

