-- ==== Sys2Proof/Laws/Space.lean ====
section
/-! SUPPORT. The index spaces: a read after a write, that every write keeps the canonical form, and that two canonical
spaces with the same reads are equal. -/

namespace Sys2Proof.Machine

variable {α : Type}

@[simp] theorem Space.read_nil (i : Nat) : Space.read ([] : Space α) i = none := rfl

theorem Space.read_cons (j : Nat) (x : α) (rest : Space α) (i : Nat) :
    Space.read ((j, x) :: rest) i = if i = j then some x else Space.read rest i := rfl

/-- A read after a write. -/
theorem Space.read_write (sp : Space α) (i k : Nat) (x : α) :
    (sp.write i x).read k = if k = i then some x else sp.read k := by
  induction sp with
  | nil => simp [Space.write, Space.read_cons]
  | cons c rest ih =>
    obtain ⟨j, y⟩ := c
    rw [Space.write]
    split
    · simp [Space.read_cons]
    · split
      · subst_vars
        simp only [Space.read_cons]
        split <;> rfl
      · simp only [Space.read_cons, ih]
        split
        · split
          · omega
          · rfl
        · rfl

@[simp] theorem Space.read_write_same (sp : Space α) (i : Nat) (x : α) : (sp.write i x).read i = some x := by
  simp [Space.read_write]

theorem Space.read_write_other (sp : Space α) {i k : Nat} (x : α) (h : k ≠ i) :
    (sp.write i x).read k = sp.read k := by
  simp [Space.read_write, h]

/-- A read after writing a sequence. -/
theorem Space.read_writeAll (xs : List α) (sp : Space α) (i k : Nat) :
    (sp.writeAll i xs).read k = if i ≤ k ∧ k < i + xs.length then xs[k - i]? else sp.read k := by
  induction xs generalizing sp i with
  | nil =>
    have h : ¬(i ≤ k ∧ k < i + ([] : List α).length) := by simp
    rw [if_neg h]
    rfl
  | cons x xs ih =>
    rw [Space.writeAll, ih, Space.read_write]
    by_cases hk : k = i
    · subst hk
      simp
    · by_cases hlt : i + 1 ≤ k ∧ k < i + 1 + xs.length
      · have h2 : i ≤ k ∧ k < i + (x :: xs).length := by simp; omega
        have h3 : k - i = (k - (i + 1)) + 1 := by omega
        rw [if_pos hlt, if_pos h2, h3, List.getElem?_cons_succ]
      · have h2 : ¬(i ≤ k ∧ k < i + (x :: xs).length) := by simp; omega
        rw [if_neg hlt, if_neg h2, if_neg hk]

/-- Outside the written range a sequence of writes leaves every read alone. -/
theorem Space.read_writeAll_outside (xs : List α) (sp : Space α) {i k : Nat} (h : k < i ∨ i + xs.length ≤ k) :
    (sp.writeAll i xs).read k = sp.read k := by
  rw [Space.read_writeAll, if_neg (by omega)]

/-- Inside the written range the read is the element written. -/
theorem Space.read_writeAll_inside (xs : List α) (sp : Space α) {i k : Nat} (h : k < xs.length) :
    (sp.writeAll i xs).read (i + k) = xs[k]? := by
  rw [Space.read_writeAll, if_pos (by omega), Nat.add_sub_cancel_left]

/-- A read of a space that holds a sequence. -/
theorem Space.read_fromIndex (xs : List α) (i k : Nat) :
    (Space.fromIndex i xs).read k = if i ≤ k then xs[k - i]? else none := by
  induction xs generalizing i with
  | nil => simp [Space.fromIndex]
  | cons x xs ih =>
    rw [Space.fromIndex, Space.read_cons, ih]
    by_cases hk : k = i
    · subst hk
      simp
    · rw [if_neg hk]
      by_cases hi : i + 1 ≤ k
      · have h3 : k - i = (k - (i + 1)) + 1 := by omega
        rw [if_pos hi, if_pos (by omega), h3, List.getElem?_cons_succ]
      · rw [if_neg hi, if_neg (by omega)]

/-! ### The canonical form -/

/-- The canonical form of a space with a first entry: the entries after it have larger indices. -/
theorem Space.wf_cons_iff (i : Nat) (x : α) (rest : Space α) :
    Space.wf ((i, x) :: rest) = true ↔ (∀ c ∈ rest, i < c.1) ∧ Space.wf rest = true := by
  induction rest generalizing i x with
  | nil => simp [Space.wf]
  | cons c rest ih =>
    obtain ⟨j, y⟩ := c
    simp only [Space.wf, Bool.and_eq_true, decide_eq_true_eq, List.mem_cons, forall_eq_or_imp]
    rw [ih]
    constructor
    · rintro ⟨h1, h2, h3⟩
      exact ⟨⟨h1, fun c hc => Nat.lt_trans h1 (h2 c hc)⟩, h2, h3⟩
    · rintro ⟨⟨h1, _⟩, h2, h3⟩
      exact ⟨h1, h2, h3⟩

theorem Space.mem_write (sp : Space α) (i : Nat) (x : α) (c : Nat × α) (h : c ∈ sp.write i x) :
    c = (i, x) ∨ c ∈ sp := by
  induction sp with
  | nil => simpa [Space.write] using h
  | cons d rest ih =>
    obtain ⟨j, y⟩ := d
    rw [Space.write] at h
    split at h
    · simpa using h
    · split at h
      · simp only [List.mem_cons] at h ⊢
        exact h.imp id .inr
      · simp only [List.mem_cons] at h ⊢
        rcases h with h | h
        · exact .inr (.inl h)
        · exact (ih h).imp id .inr

/-- A write keeps the canonical form. -/
theorem Space.wf_write (sp : Space α) (i : Nat) (x : α) (h : sp.wf = true) : (sp.write i x).wf = true := by
  induction sp with
  | nil => rfl
  | cons c rest ih =>
    obtain ⟨j, y⟩ := c
    have hc := (Space.wf_cons_iff j y rest).mp h
    rw [Space.write]
    split
    · next hlt =>
      refine (Space.wf_cons_iff _ _ _).mpr ⟨?_, h⟩
      simp only [List.mem_cons, forall_eq_or_imp]
      exact ⟨hlt, fun d hd => Nat.lt_trans hlt (hc.1 d hd)⟩
    · split
      · next heq =>
        subst heq
        exact (Space.wf_cons_iff _ _ _).mpr hc
      · refine (Space.wf_cons_iff _ _ _).mpr ⟨?_, ih hc.2⟩
        intro d hd
        rcases Space.mem_write rest i x d hd with rfl | hd
        · show j < i
          omega
        · exact hc.1 d hd

/-- A sequence of writes keeps the canonical form. -/
theorem Space.wf_writeAll (xs : List α) (sp : Space α) (i : Nat) (h : sp.wf = true) :
    (sp.writeAll i xs).wf = true := by
  induction xs generalizing sp i with
  | nil => exact h
  | cons x xs ih => exact ih _ _ (Space.wf_write sp i x h)

theorem Space.mem_fromIndex (xs : List α) (i : Nat) (c : Nat × α) (h : c ∈ Space.fromIndex i xs) : i ≤ c.1 := by
  induction xs generalizing i with
  | nil => cases h
  | cons x xs ih =>
    simp only [Space.fromIndex, List.mem_cons] at h
    rcases h with rfl | h
    · exact Nat.le_refl _
    · exact Nat.le_of_succ_le (ih _ h)

/-- A space that holds a sequence is canonical. -/
theorem Space.wf_fromIndex (xs : List α) (i : Nat) : (Space.fromIndex i xs).wf = true := by
  induction xs generalizing i with
  | nil => rfl
  | cons x xs ih =>
    exact (Space.wf_cons_iff _ _ _).mpr ⟨fun c hc => Space.mem_fromIndex xs _ c hc, ih _⟩

/-- Below the first index of a canonical space nothing is listed. -/
theorem Space.read_eq_none_of_lt (sp : Space α) (i : Nat) (h : ∀ c ∈ sp, i < c.1) : sp.read i = none := by
  induction sp with
  | nil => rfl
  | cons c rest ih =>
    obtain ⟨j, y⟩ := c
    simp only [List.mem_cons, forall_eq_or_imp] at h
    rw [Space.read_cons, if_neg (by omega)]
    exact ih h.2

/-- Equal reads are equal data: a canonical space is determined by what it reads. -/
theorem Space.ext_of_wf (s t : Space α) (hs : s.wf = true) (ht : t.wf = true)
    (h : ∀ i, s.read i = t.read i) : s = t := by
  induction s generalizing t with
  | nil =>
    cases t with
    | nil => rfl
    | cons c rest =>
      obtain ⟨j, y⟩ := c
      have := h j
      simp [Space.read_cons] at this
  | cons c rest ih =>
    obtain ⟨i, x⟩ := c
    cases t with
    | nil =>
      have := h i
      simp [Space.read_cons] at this
    | cons d rest' =>
      obtain ⟨j, y⟩ := d
      have h1 := (Space.wf_cons_iff i x rest).mp hs
      have h2 := (Space.wf_cons_iff j y rest').mp ht
      have hij : i = j := by
        rcases Nat.lt_trichotomy i j with hlt | heq | hgt
        · have := h i
          rw [Space.read_cons, if_pos rfl, Space.read_cons, if_neg (by omega),
            Space.read_eq_none_of_lt rest' i (fun c hc => Nat.lt_trans hlt (h2.1 c hc))] at this
          cases this
        · exact heq
        · have := h j
          rw [Space.read_cons, if_neg (by omega), Space.read_cons, if_pos rfl,
            Space.read_eq_none_of_lt rest j (fun c hc => Nat.lt_trans hgt (h1.1 c hc))] at this
          cases this
      subst hij
      have hxy := h i
      simp [Space.read_cons] at hxy
      subst hxy
      congr 1
      refine ih rest' h1.2 h2.2 fun k => ?_
      by_cases hk : k = i
      · subst hk
        rw [Space.read_eq_none_of_lt rest k h1.1, Space.read_eq_none_of_lt rest' k h2.1]
      · have := h k
        rwa [Space.read_cons, if_neg hk, Space.read_cons, if_neg hk] at this

/-! ### The byte buffers -/

/-- `MemWrite` keeps the canonical form. -/
theorem Memory.wf_writeWord (m : Memory) (a : Nat) (v : Word) (h : m.wf = true) : (m.writeWord a v).wf = true :=
  Space.wf_writeAll _ _ _ h

/-- Padding keeps the canonical form. -/
theorem Memory.wf_padMessage (m : Memory) (len : Nat) (h : m.wf = true) : Memory.wf (padMessage m len) = true :=
  Memory.wf_writeWord _ _ _ (Memory.wf_writeWord _ _ _ (Space.wf_writeAll _ _ _ (Space.wf_write _ _ _ h)))

end Sys2Proof.Machine
end

