-- ==== Sys2Proof/Laws/State.lean ====
section
/-! SUPPORT. What each named update of the state does to each field, one lemma a field, so that no proof unfolds an
update. -/

namespace Sys2Proof.Machine

section
variable (s : State)

/-! ### `appendBytes` -/

@[simp] theorem State.appendBytes_hs (bs : List Byte) : (s.appendBytes bs).hs = s.hs := rfl
@[simp] theorem State.appendBytes_vars (bs : List Byte) : (s.appendBytes bs).vars = s.vars := rfl
@[simp] theorem State.appendBytes_w (bs : List Byte) : (s.appendBytes bs).w = s.w := rfl
@[simp] theorem State.appendBytes_cu (bs : List Byte) : (s.appendBytes bs).cu = s.cu := rfl
@[simp] theorem State.appendBytes_msg (bs : List Byte) : (s.appendBytes bs).msg = s.msg.writeAll s.msgLen bs := rfl
@[simp] theorem State.appendBytes_msgLen (bs : List Byte) : (s.appendBytes bs).msgLen = s.msgLen + bs.length := rfl
@[simp] theorem State.appendBytes_hex (bs : List Byte) : (s.appendBytes bs).hex = s.hex := rfl
@[simp] theorem State.appendBytes_state (bs : List Byte) : (s.appendBytes bs).state = s.state := rfl
@[simp] theorem State.appendBytes_err (bs : List Byte) : (s.appendBytes bs).err = s.err := rfl
@[simp] theorem State.appendBytes_cuCount (bs : List Byte) : (s.appendBytes bs).cuCount = s.cuCount := rfl
@[simp] theorem State.appendBytes_errPos (bs : List Byte) : (s.appendBytes bs).errPos = s.errPos := rfl
@[simp] theorem State.appendBytes_byteLen (bs : List Byte) : (s.appendBytes bs).byteLen = s.byteLen := rfl
@[simp] theorem State.appendBytes_phase (bs : List Byte) : (s.appendBytes bs).phase = s.phase := rfl
@[simp] theorem State.appendBytes_ci (bs : List Byte) : (s.appendBytes bs).ci = s.ci := rfl
@[simp] theorem State.appendBytes_t (bs : List Byte) : (s.appendBytes bs).t = s.t := rfl
@[simp] theorem State.appendBytes_blk (bs : List Byte) : (s.appendBytes bs).blk = s.blk := rfl
@[simp] theorem State.appendBytes_nblk (bs : List Byte) : (s.appendBytes bs).nblk = s.nblk := rfl
@[simp] theorem State.appendBytes_cfg (bs : List Byte) : (s.appendBytes bs).cfg = s.cfg := rfl
@[simp] theorem State.appendBytes_moves (bs : List Byte) : (s.appendBytes bs).moves = s.moves := rfl
@[simp] theorem State.appendBytes_responses (bs : List Byte) : (s.appendBytes bs).responses = s.responses := rfl

/-! ### `respond` -/

@[simp] theorem State.respond_hs (c : RespCode) (d : Word) : (s.respond c d).hs = s.hs := rfl
@[simp] theorem State.respond_vars (c : RespCode) (d : Word) : (s.respond c d).vars = s.vars := rfl
@[simp] theorem State.respond_w (c : RespCode) (d : Word) : (s.respond c d).w = s.w := rfl
@[simp] theorem State.respond_cu (c : RespCode) (d : Word) : (s.respond c d).cu = s.cu := rfl
@[simp] theorem State.respond_msg (c : RespCode) (d : Word) : (s.respond c d).msg = s.msg := rfl
@[simp] theorem State.respond_msgLen (c : RespCode) (d : Word) : (s.respond c d).msgLen = s.msgLen := rfl
@[simp] theorem State.respond_hex (c : RespCode) (d : Word) : (s.respond c d).hex = s.hex := rfl
@[simp] theorem State.respond_state (c : RespCode) (d : Word) : (s.respond c d).state = s.state := rfl
@[simp] theorem State.respond_err (c : RespCode) (d : Word) : (s.respond c d).err = s.err := rfl
@[simp] theorem State.respond_cuCount (c : RespCode) (d : Word) : (s.respond c d).cuCount = s.cuCount := rfl
@[simp] theorem State.respond_errPos (c : RespCode) (d : Word) : (s.respond c d).errPos = s.errPos := rfl
@[simp] theorem State.respond_byteLen (c : RespCode) (d : Word) : (s.respond c d).byteLen = s.byteLen := rfl
@[simp] theorem State.respond_phase (c : RespCode) (d : Word) : (s.respond c d).phase = s.phase := rfl
@[simp] theorem State.respond_ci (c : RespCode) (d : Word) : (s.respond c d).ci = s.ci := rfl
@[simp] theorem State.respond_t (c : RespCode) (d : Word) : (s.respond c d).t = s.t := rfl
@[simp] theorem State.respond_blk (c : RespCode) (d : Word) : (s.respond c d).blk = s.blk := rfl
@[simp] theorem State.respond_nblk (c : RespCode) (d : Word) : (s.respond c d).nblk = s.nblk := rfl
@[simp] theorem State.respond_cfg (c : RespCode) (d : Word) : (s.respond c d).cfg = s.cfg := rfl
@[simp] theorem State.respond_moves (c : RespCode) (d : Word) : (s.respond c d).moves = s.moves := rfl
@[simp] theorem State.respond_responses (c : RespCode) (d : Word) : (s.respond c d).responses = s.responses ++ [⟨c, d⟩] := rfl

/-! ### `respondStatus` -/

@[simp] theorem State.respondStatus_hs (c : RespCode) : (s.respondStatus c).hs = s.hs := rfl
@[simp] theorem State.respondStatus_vars (c : RespCode) : (s.respondStatus c).vars = s.vars := rfl
@[simp] theorem State.respondStatus_w (c : RespCode) : (s.respondStatus c).w = s.w := rfl
@[simp] theorem State.respondStatus_cu (c : RespCode) : (s.respondStatus c).cu = s.cu := rfl
@[simp] theorem State.respondStatus_msg (c : RespCode) : (s.respondStatus c).msg = s.msg := rfl
@[simp] theorem State.respondStatus_msgLen (c : RespCode) : (s.respondStatus c).msgLen = s.msgLen := rfl
@[simp] theorem State.respondStatus_hex (c : RespCode) : (s.respondStatus c).hex = s.hex := rfl
@[simp] theorem State.respondStatus_state (c : RespCode) : (s.respondStatus c).state = s.state := rfl
@[simp] theorem State.respondStatus_err (c : RespCode) : (s.respondStatus c).err = s.err := rfl
@[simp] theorem State.respondStatus_cuCount (c : RespCode) : (s.respondStatus c).cuCount = s.cuCount := rfl
@[simp] theorem State.respondStatus_errPos (c : RespCode) : (s.respondStatus c).errPos = s.errPos := rfl
@[simp] theorem State.respondStatus_byteLen (c : RespCode) : (s.respondStatus c).byteLen = s.byteLen := rfl
@[simp] theorem State.respondStatus_phase (c : RespCode) : (s.respondStatus c).phase = s.phase := rfl
@[simp] theorem State.respondStatus_ci (c : RespCode) : (s.respondStatus c).ci = s.ci := rfl
@[simp] theorem State.respondStatus_t (c : RespCode) : (s.respondStatus c).t = s.t := rfl
@[simp] theorem State.respondStatus_blk (c : RespCode) : (s.respondStatus c).blk = s.blk := rfl
@[simp] theorem State.respondStatus_nblk (c : RespCode) : (s.respondStatus c).nblk = s.nblk := rfl
@[simp] theorem State.respondStatus_cfg (c : RespCode) : (s.respondStatus c).cfg = s.cfg := rfl
@[simp] theorem State.respondStatus_moves (c : RespCode) : (s.respondStatus c).moves = s.moves := rfl
@[simp] theorem State.respondStatus_responses (c : RespCode) : (s.respondStatus c).responses = s.responses ++ [⟨c, s.status⟩] := rfl

/-! ### `raiseError` -/

@[simp] theorem State.raiseError_hs (e : ErrCode) (i : Word) : (s.raiseError e i).hs = s.hs := rfl
@[simp] theorem State.raiseError_vars (e : ErrCode) (i : Word) : (s.raiseError e i).vars = s.vars := rfl
@[simp] theorem State.raiseError_w (e : ErrCode) (i : Word) : (s.raiseError e i).w = s.w := rfl
@[simp] theorem State.raiseError_cu (e : ErrCode) (i : Word) : (s.raiseError e i).cu = s.cu := rfl
@[simp] theorem State.raiseError_msg (e : ErrCode) (i : Word) : (s.raiseError e i).msg = s.msg := rfl
@[simp] theorem State.raiseError_msgLen (e : ErrCode) (i : Word) : (s.raiseError e i).msgLen = s.msgLen := rfl
@[simp] theorem State.raiseError_hex (e : ErrCode) (i : Word) : (s.raiseError e i).hex = s.hex := rfl
@[simp] theorem State.raiseError_state (e : ErrCode) (i : Word) : (s.raiseError e i).state = .error := rfl
@[simp] theorem State.raiseError_err (e : ErrCode) (i : Word) : (s.raiseError e i).err = e := rfl
@[simp] theorem State.raiseError_cuCount (e : ErrCode) (i : Word) : (s.raiseError e i).cuCount = s.cuCount := rfl
@[simp] theorem State.raiseError_errPos (e : ErrCode) (i : Word) : (s.raiseError e i).errPos = i := rfl
@[simp] theorem State.raiseError_byteLen (e : ErrCode) (i : Word) : (s.raiseError e i).byteLen = s.byteLen := rfl
@[simp] theorem State.raiseError_phase (e : ErrCode) (i : Word) : (s.raiseError e i).phase = 0#4 := rfl
@[simp] theorem State.raiseError_ci (e : ErrCode) (i : Word) : (s.raiseError e i).ci = s.ci := rfl
@[simp] theorem State.raiseError_t (e : ErrCode) (i : Word) : (s.raiseError e i).t = s.t := rfl
@[simp] theorem State.raiseError_blk (e : ErrCode) (i : Word) : (s.raiseError e i).blk = s.blk := rfl
@[simp] theorem State.raiseError_nblk (e : ErrCode) (i : Word) : (s.raiseError e i).nblk = s.nblk := rfl
@[simp] theorem State.raiseError_cfg (e : ErrCode) (i : Word) : (s.raiseError e i).cfg = s.cfg := rfl
@[simp] theorem State.raiseError_moves (e : ErrCode) (i : Word) : (s.raiseError e i).moves = s.moves := rfl
@[simp] theorem State.raiseError_responses (e : ErrCode) (i : Word) : (s.raiseError e i).responses = s.responses := rfl

/-! ### `beginCall` -/

@[simp] theorem State.beginCall_hs : s.beginCall.hs = some iv := rfl
@[simp] theorem State.beginCall_vars : s.beginCall.vars = s.vars := rfl
@[simp] theorem State.beginCall_w : s.beginCall.w = s.w := rfl
@[simp] theorem State.beginCall_cu : s.beginCall.cu = s.cu := rfl
@[simp] theorem State.beginCall_msg : s.beginCall.msg = s.msg := rfl
@[simp] theorem State.beginCall_msgLen : s.beginCall.msgLen = 0 := rfl
@[simp] theorem State.beginCall_hex : s.beginCall.hex = s.hex := rfl
@[simp] theorem State.beginCall_state : s.beginCall.state = .load := rfl
@[simp] theorem State.beginCall_err : s.beginCall.err = .none := rfl
@[simp] theorem State.beginCall_cuCount : s.beginCall.cuCount = 0#32 := rfl
@[simp] theorem State.beginCall_errPos : s.beginCall.errPos = 0#32 := rfl
@[simp] theorem State.beginCall_byteLen : s.beginCall.byteLen = 0#32 := rfl
@[simp] theorem State.beginCall_phase : s.beginCall.phase = 0#4 := rfl
@[simp] theorem State.beginCall_ci : s.beginCall.ci = 0 := rfl
@[simp] theorem State.beginCall_t : s.beginCall.t = 0 := rfl
@[simp] theorem State.beginCall_blk : s.beginCall.blk = 0 := rfl
@[simp] theorem State.beginCall_nblk : s.beginCall.nblk = 0 := rfl
@[simp] theorem State.beginCall_cfg : s.beginCall.cfg = s.cfg := rfl
@[simp] theorem State.beginCall_moves : s.beginCall.moves = s.moves := rfl
@[simp] theorem State.beginCall_responses : s.beginCall.responses = s.responses := rfl

/-! ### `beginRun` -/

@[simp] theorem State.beginRun_hs : s.beginRun.hs = s.hs := rfl
@[simp] theorem State.beginRun_vars : s.beginRun.vars = s.vars := rfl
@[simp] theorem State.beginRun_w : s.beginRun.w = s.w := rfl
@[simp] theorem State.beginRun_cu : s.beginRun.cu = s.cu := rfl
@[simp] theorem State.beginRun_msg : s.beginRun.msg = s.msg := rfl
@[simp] theorem State.beginRun_msgLen : s.beginRun.msgLen = 0 := rfl
@[simp] theorem State.beginRun_hex : s.beginRun.hex = s.hex := rfl
@[simp] theorem State.beginRun_state : s.beginRun.state = .busy := rfl
@[simp] theorem State.beginRun_err : s.beginRun.err = s.err := rfl
@[simp] theorem State.beginRun_cuCount : s.beginRun.cuCount = s.cuCount := rfl
@[simp] theorem State.beginRun_errPos : s.beginRun.errPos = s.errPos := rfl
@[simp] theorem State.beginRun_byteLen : s.beginRun.byteLen = 0#32 := rfl
@[simp] theorem State.beginRun_phase : s.beginRun.phase = 1#4 := rfl
@[simp] theorem State.beginRun_ci : s.beginRun.ci = 0 := rfl
@[simp] theorem State.beginRun_t : s.beginRun.t = s.t := rfl
@[simp] theorem State.beginRun_blk : s.beginRun.blk = s.blk := rfl
@[simp] theorem State.beginRun_nblk : s.beginRun.nblk = s.nblk := rfl
@[simp] theorem State.beginRun_cfg : s.beginRun.cfg = s.cfg := rfl
@[simp] theorem State.beginRun_moves : s.beginRun.moves = s.moves := rfl
@[simp] theorem State.beginRun_responses : s.beginRun.responses = s.responses := rfl

/-! ### `resetEvent` -/

@[simp] theorem State.resetEvent_hs : s.resetEvent.hs = none := rfl
@[simp] theorem State.resetEvent_vars : s.resetEvent.vars = none := rfl
@[simp] theorem State.resetEvent_w : s.resetEvent.w = [] := rfl
@[simp] theorem State.resetEvent_cu : s.resetEvent.cu = [] := rfl
@[simp] theorem State.resetEvent_msg : s.resetEvent.msg = [] := rfl
@[simp] theorem State.resetEvent_msgLen : s.resetEvent.msgLen = 0 := rfl
@[simp] theorem State.resetEvent_hex : s.resetEvent.hex = [] := rfl
@[simp] theorem State.resetEvent_state : s.resetEvent.state = .idle := rfl
@[simp] theorem State.resetEvent_err : s.resetEvent.err = .none := rfl
@[simp] theorem State.resetEvent_cuCount : s.resetEvent.cuCount = 0#32 := rfl
@[simp] theorem State.resetEvent_errPos : s.resetEvent.errPos = 0#32 := rfl
@[simp] theorem State.resetEvent_byteLen : s.resetEvent.byteLen = 0#32 := rfl
@[simp] theorem State.resetEvent_phase : s.resetEvent.phase = 0#4 := rfl
@[simp] theorem State.resetEvent_ci : s.resetEvent.ci = 0 := rfl
@[simp] theorem State.resetEvent_t : s.resetEvent.t = 0 := rfl
@[simp] theorem State.resetEvent_blk : s.resetEvent.blk = 0 := rfl
@[simp] theorem State.resetEvent_nblk : s.resetEvent.nblk = 0 := rfl
@[simp] theorem State.resetEvent_cfg : s.resetEvent.cfg = s.cfg := rfl
@[simp] theorem State.resetEvent_moves : s.resetEvent.moves = s.moves := rfl
@[simp] theorem State.resetEvent_responses : s.resetEvent.responses = s.responses := rfl

/-! ### `storeCodeUnit` -/

@[simp] theorem State.storeCodeUnit_hs (u : CodeUnit) : (s.storeCodeUnit u).hs = s.hs := rfl
@[simp] theorem State.storeCodeUnit_vars (u : CodeUnit) : (s.storeCodeUnit u).vars = s.vars := rfl
@[simp] theorem State.storeCodeUnit_w (u : CodeUnit) : (s.storeCodeUnit u).w = s.w := rfl
@[simp] theorem State.storeCodeUnit_cu (u : CodeUnit) : (s.storeCodeUnit u).cu = s.cu.write s.cuCount.toNat u := rfl
@[simp] theorem State.storeCodeUnit_msg (u : CodeUnit) : (s.storeCodeUnit u).msg = s.msg := rfl
@[simp] theorem State.storeCodeUnit_msgLen (u : CodeUnit) : (s.storeCodeUnit u).msgLen = s.msgLen := rfl
@[simp] theorem State.storeCodeUnit_hex (u : CodeUnit) : (s.storeCodeUnit u).hex = s.hex := rfl
@[simp] theorem State.storeCodeUnit_state (u : CodeUnit) : (s.storeCodeUnit u).state = s.state := rfl
@[simp] theorem State.storeCodeUnit_err (u : CodeUnit) : (s.storeCodeUnit u).err = s.err := rfl
@[simp] theorem State.storeCodeUnit_cuCount (u : CodeUnit) : (s.storeCodeUnit u).cuCount = s.cuCount + 1#32 := rfl
@[simp] theorem State.storeCodeUnit_errPos (u : CodeUnit) : (s.storeCodeUnit u).errPos = s.errPos := rfl
@[simp] theorem State.storeCodeUnit_byteLen (u : CodeUnit) : (s.storeCodeUnit u).byteLen = s.byteLen := rfl
@[simp] theorem State.storeCodeUnit_phase (u : CodeUnit) : (s.storeCodeUnit u).phase = s.phase := rfl
@[simp] theorem State.storeCodeUnit_ci (u : CodeUnit) : (s.storeCodeUnit u).ci = s.ci := rfl
@[simp] theorem State.storeCodeUnit_t (u : CodeUnit) : (s.storeCodeUnit u).t = s.t := rfl
@[simp] theorem State.storeCodeUnit_blk (u : CodeUnit) : (s.storeCodeUnit u).blk = s.blk := rfl
@[simp] theorem State.storeCodeUnit_nblk (u : CodeUnit) : (s.storeCodeUnit u).nblk = s.nblk := rfl
@[simp] theorem State.storeCodeUnit_cfg (u : CodeUnit) : (s.storeCodeUnit u).cfg = s.cfg := rfl
@[simp] theorem State.storeCodeUnit_moves (u : CodeUnit) : (s.storeCodeUnit u).moves = s.moves := rfl
@[simp] theorem State.storeCodeUnit_responses (u : CodeUnit) : (s.storeCodeUnit u).responses = s.responses := rfl

/-! ### `emitGroup` -/

@[simp] theorem State.emitGroup_hs (bs : List Byte) (n : Nat) : (s.emitGroup bs n).hs = s.hs := rfl
@[simp] theorem State.emitGroup_vars (bs : List Byte) (n : Nat) : (s.emitGroup bs n).vars = s.vars := rfl
@[simp] theorem State.emitGroup_w (bs : List Byte) (n : Nat) : (s.emitGroup bs n).w = s.w := rfl
@[simp] theorem State.emitGroup_cu (bs : List Byte) (n : Nat) : (s.emitGroup bs n).cu = s.cu := rfl
@[simp] theorem State.emitGroup_msg (bs : List Byte) (n : Nat) : (s.emitGroup bs n).msg = s.msg.writeAll s.msgLen bs := rfl
@[simp] theorem State.emitGroup_msgLen (bs : List Byte) (n : Nat) : (s.emitGroup bs n).msgLen = s.msgLen + bs.length := rfl
@[simp] theorem State.emitGroup_hex (bs : List Byte) (n : Nat) : (s.emitGroup bs n).hex = s.hex := rfl
@[simp] theorem State.emitGroup_state (bs : List Byte) (n : Nat) : (s.emitGroup bs n).state = s.state := rfl
@[simp] theorem State.emitGroup_err (bs : List Byte) (n : Nat) : (s.emitGroup bs n).err = s.err := rfl
@[simp] theorem State.emitGroup_cuCount (bs : List Byte) (n : Nat) : (s.emitGroup bs n).cuCount = s.cuCount := rfl
@[simp] theorem State.emitGroup_errPos (bs : List Byte) (n : Nat) : (s.emitGroup bs n).errPos = s.errPos := rfl
@[simp] theorem State.emitGroup_byteLen (bs : List Byte) (n : Nat) : (s.emitGroup bs n).byteLen = s.byteLen + BitVec.ofNat 32 bs.length := rfl
@[simp] theorem State.emitGroup_phase (bs : List Byte) (n : Nat) : (s.emitGroup bs n).phase = s.phase := rfl
@[simp] theorem State.emitGroup_ci (bs : List Byte) (n : Nat) : (s.emitGroup bs n).ci = s.ci + n := rfl
@[simp] theorem State.emitGroup_t (bs : List Byte) (n : Nat) : (s.emitGroup bs n).t = s.t := rfl
@[simp] theorem State.emitGroup_blk (bs : List Byte) (n : Nat) : (s.emitGroup bs n).blk = s.blk := rfl
@[simp] theorem State.emitGroup_nblk (bs : List Byte) (n : Nat) : (s.emitGroup bs n).nblk = s.nblk := rfl
@[simp] theorem State.emitGroup_cfg (bs : List Byte) (n : Nat) : (s.emitGroup bs n).cfg = s.cfg := rfl
@[simp] theorem State.emitGroup_moves (bs : List Byte) (n : Nat) : (s.emitGroup bs n).moves = s.moves := rfl
@[simp] theorem State.emitGroup_responses (bs : List Byte) (n : Nat) : (s.emitGroup bs n).responses = s.responses := rfl

/-! ### `raiseMalformed` -/

@[simp] theorem State.raiseMalformed_hs : s.raiseMalformed.hs = s.hs := rfl
@[simp] theorem State.raiseMalformed_vars : s.raiseMalformed.vars = s.vars := rfl
@[simp] theorem State.raiseMalformed_w : s.raiseMalformed.w = s.w := rfl
@[simp] theorem State.raiseMalformed_cu : s.raiseMalformed.cu = s.cu := rfl
@[simp] theorem State.raiseMalformed_msg : s.raiseMalformed.msg = s.msg := rfl
@[simp] theorem State.raiseMalformed_msgLen : s.raiseMalformed.msgLen = s.msgLen := rfl
@[simp] theorem State.raiseMalformed_hex : s.raiseMalformed.hex = s.hex := rfl
@[simp] theorem State.raiseMalformed_state : s.raiseMalformed.state = .error := rfl
@[simp] theorem State.raiseMalformed_err : s.raiseMalformed.err = .malformed := rfl
@[simp] theorem State.raiseMalformed_cuCount : s.raiseMalformed.cuCount = s.cuCount := rfl
@[simp] theorem State.raiseMalformed_errPos : s.raiseMalformed.errPos = BitVec.ofNat 32 s.ci := rfl
@[simp] theorem State.raiseMalformed_byteLen : s.raiseMalformed.byteLen = s.byteLen := rfl
@[simp] theorem State.raiseMalformed_phase : s.raiseMalformed.phase = 0#4 := rfl
@[simp] theorem State.raiseMalformed_ci : s.raiseMalformed.ci = s.ci := rfl
@[simp] theorem State.raiseMalformed_t : s.raiseMalformed.t = s.t := rfl
@[simp] theorem State.raiseMalformed_blk : s.raiseMalformed.blk = s.blk := rfl
@[simp] theorem State.raiseMalformed_nblk : s.raiseMalformed.nblk = s.nblk := rfl
@[simp] theorem State.raiseMalformed_cfg : s.raiseMalformed.cfg = s.cfg := rfl
@[simp] theorem State.raiseMalformed_moves : s.raiseMalformed.moves = s.moves := rfl
@[simp] theorem State.raiseMalformed_responses : s.raiseMalformed.responses = s.responses := rfl

/-! ### `loadVars` -/

@[simp] theorem State.loadVars_hs (v : WorkVars) : (s.loadVars v).hs = s.hs := rfl
@[simp] theorem State.loadVars_vars (v : WorkVars) : (s.loadVars v).vars = some v := rfl
@[simp] theorem State.loadVars_w (v : WorkVars) : (s.loadVars v).w = s.w := rfl
@[simp] theorem State.loadVars_cu (v : WorkVars) : (s.loadVars v).cu = s.cu := rfl
@[simp] theorem State.loadVars_msg (v : WorkVars) : (s.loadVars v).msg = s.msg := rfl
@[simp] theorem State.loadVars_msgLen (v : WorkVars) : (s.loadVars v).msgLen = s.msgLen := rfl
@[simp] theorem State.loadVars_hex (v : WorkVars) : (s.loadVars v).hex = s.hex := rfl
@[simp] theorem State.loadVars_state (v : WorkVars) : (s.loadVars v).state = s.state := rfl
@[simp] theorem State.loadVars_err (v : WorkVars) : (s.loadVars v).err = s.err := rfl
@[simp] theorem State.loadVars_cuCount (v : WorkVars) : (s.loadVars v).cuCount = s.cuCount := rfl
@[simp] theorem State.loadVars_errPos (v : WorkVars) : (s.loadVars v).errPos = s.errPos := rfl
@[simp] theorem State.loadVars_byteLen (v : WorkVars) : (s.loadVars v).byteLen = s.byteLen := rfl
@[simp] theorem State.loadVars_phase (v : WorkVars) : (s.loadVars v).phase = 5#4 := rfl
@[simp] theorem State.loadVars_ci (v : WorkVars) : (s.loadVars v).ci = s.ci := rfl
@[simp] theorem State.loadVars_t (v : WorkVars) : (s.loadVars v).t = 0 := rfl
@[simp] theorem State.loadVars_blk (v : WorkVars) : (s.loadVars v).blk = s.blk := rfl
@[simp] theorem State.loadVars_nblk (v : WorkVars) : (s.loadVars v).nblk = s.nblk := rfl
@[simp] theorem State.loadVars_cfg (v : WorkVars) : (s.loadVars v).cfg = s.cfg := rfl
@[simp] theorem State.loadVars_moves (v : WorkVars) : (s.loadVars v).moves = s.moves := rfl
@[simp] theorem State.loadVars_responses (v : WorkVars) : (s.loadVars v).responses = s.responses := rfl

/-! ### `storeDigest` -/

@[simp] theorem State.storeDigest_hs (x : HashWords) : (s.storeDigest x).hs = s.hs := rfl
@[simp] theorem State.storeDigest_vars (x : HashWords) : (s.storeDigest x).vars = s.vars := rfl
@[simp] theorem State.storeDigest_w (x : HashWords) : (s.storeDigest x).w = s.w := rfl
@[simp] theorem State.storeDigest_cu (x : HashWords) : (s.storeDigest x).cu = s.cu := rfl
@[simp] theorem State.storeDigest_msg (x : HashWords) : (s.storeDigest x).msg = s.msg := rfl
@[simp] theorem State.storeDigest_msgLen (x : HashWords) : (s.storeDigest x).msgLen = s.msgLen := rfl
@[simp] theorem State.storeDigest_hex (x : HashWords) : (s.storeDigest x).hex = Space.fromIndex 0 (format x) := rfl
@[simp] theorem State.storeDigest_state (x : HashWords) : (s.storeDigest x).state = .done := rfl
@[simp] theorem State.storeDigest_err (x : HashWords) : (s.storeDigest x).err = s.err := rfl
@[simp] theorem State.storeDigest_cuCount (x : HashWords) : (s.storeDigest x).cuCount = s.cuCount := rfl
@[simp] theorem State.storeDigest_errPos (x : HashWords) : (s.storeDigest x).errPos = s.errPos := rfl
@[simp] theorem State.storeDigest_byteLen (x : HashWords) : (s.storeDigest x).byteLen = s.byteLen := rfl
@[simp] theorem State.storeDigest_phase (x : HashWords) : (s.storeDigest x).phase = 0#4 := rfl
@[simp] theorem State.storeDigest_ci (x : HashWords) : (s.storeDigest x).ci = s.ci := rfl
@[simp] theorem State.storeDigest_t (x : HashWords) : (s.storeDigest x).t = s.t := rfl
@[simp] theorem State.storeDigest_blk (x : HashWords) : (s.storeDigest x).blk = s.blk := rfl
@[simp] theorem State.storeDigest_nblk (x : HashWords) : (s.storeDigest x).nblk = s.nblk := rfl
@[simp] theorem State.storeDigest_cfg (x : HashWords) : (s.storeDigest x).cfg = s.cfg := rfl
@[simp] theorem State.storeDigest_moves (x : HashWords) : (s.storeDigest x).moves = s.moves := rfl
@[simp] theorem State.storeDigest_responses (x : HashWords) : (s.storeDigest x).responses = s.responses := rfl

/-! ### `storeFold` -/

@[simp] theorem State.storeFold_hs (x : HashWords) : (s.storeFold x).hs = some x := rfl
@[simp] theorem State.storeFold_vars (x : HashWords) : (s.storeFold x).vars = s.vars := rfl
@[simp] theorem State.storeFold_w (x : HashWords) : (s.storeFold x).w = s.w := rfl
@[simp] theorem State.storeFold_cu (x : HashWords) : (s.storeFold x).cu = s.cu := rfl
@[simp] theorem State.storeFold_msg (x : HashWords) : (s.storeFold x).msg = s.msg := rfl
@[simp] theorem State.storeFold_msgLen (x : HashWords) : (s.storeFold x).msgLen = s.msgLen := rfl
@[simp] theorem State.storeFold_hex (x : HashWords) : (s.storeFold x).hex = s.hex := rfl
@[simp] theorem State.storeFold_state (x : HashWords) : (s.storeFold x).state = s.state := rfl
@[simp] theorem State.storeFold_err (x : HashWords) : (s.storeFold x).err = s.err := rfl
@[simp] theorem State.storeFold_cuCount (x : HashWords) : (s.storeFold x).cuCount = s.cuCount := rfl
@[simp] theorem State.storeFold_errPos (x : HashWords) : (s.storeFold x).errPos = s.errPos := rfl
@[simp] theorem State.storeFold_byteLen (x : HashWords) : (s.storeFold x).byteLen = s.byteLen := rfl
@[simp] theorem State.storeFold_phase (x : HashWords) : (s.storeFold x).phase = if s.blk + 1 = s.nblk then 7#4 else 3#4 := rfl
@[simp] theorem State.storeFold_ci (x : HashWords) : (s.storeFold x).ci = s.ci := rfl
@[simp] theorem State.storeFold_t (x : HashWords) : (s.storeFold x).t = 0 := rfl
@[simp] theorem State.storeFold_blk (x : HashWords) : (s.storeFold x).blk = s.blk + 1 := rfl
@[simp] theorem State.storeFold_nblk (x : HashWords) : (s.storeFold x).nblk = s.nblk := rfl
@[simp] theorem State.storeFold_cfg (x : HashWords) : (s.storeFold x).cfg = s.cfg := rfl
@[simp] theorem State.storeFold_moves (x : HashWords) : (s.storeFold x).moves = s.moves := rfl
@[simp] theorem State.storeFold_responses (x : HashWords) : (s.storeFold x).responses = s.responses := rfl

/-! ### `storeScheduleWord` -/

@[simp] theorem State.storeScheduleWord_hs (x : Word) : (s.storeScheduleWord x).hs = s.hs := by
  unfold State.storeScheduleWord; split <;> rfl
@[simp] theorem State.storeScheduleWord_vars (x : Word) : (s.storeScheduleWord x).vars = s.vars := by
  unfold State.storeScheduleWord; split <;> rfl
@[simp] theorem State.storeScheduleWord_w (x : Word) : (s.storeScheduleWord x).w = s.w.write s.t.val x := by
  unfold State.storeScheduleWord; split <;> rfl
@[simp] theorem State.storeScheduleWord_cu (x : Word) : (s.storeScheduleWord x).cu = s.cu := by
  unfold State.storeScheduleWord; split <;> rfl
@[simp] theorem State.storeScheduleWord_msg (x : Word) : (s.storeScheduleWord x).msg = s.msg := by
  unfold State.storeScheduleWord; split <;> rfl
@[simp] theorem State.storeScheduleWord_msgLen (x : Word) : (s.storeScheduleWord x).msgLen = s.msgLen := by
  unfold State.storeScheduleWord; split <;> rfl
@[simp] theorem State.storeScheduleWord_hex (x : Word) : (s.storeScheduleWord x).hex = s.hex := by
  unfold State.storeScheduleWord; split <;> rfl
@[simp] theorem State.storeScheduleWord_state (x : Word) : (s.storeScheduleWord x).state = s.state := by
  unfold State.storeScheduleWord; split <;> rfl
@[simp] theorem State.storeScheduleWord_err (x : Word) : (s.storeScheduleWord x).err = s.err := by
  unfold State.storeScheduleWord; split <;> rfl
@[simp] theorem State.storeScheduleWord_cuCount (x : Word) : (s.storeScheduleWord x).cuCount = s.cuCount := by
  unfold State.storeScheduleWord; split <;> rfl
@[simp] theorem State.storeScheduleWord_errPos (x : Word) : (s.storeScheduleWord x).errPos = s.errPos := by
  unfold State.storeScheduleWord; split <;> rfl
@[simp] theorem State.storeScheduleWord_byteLen (x : Word) : (s.storeScheduleWord x).byteLen = s.byteLen := by
  unfold State.storeScheduleWord; split <;> rfl
@[simp] theorem State.storeScheduleWord_phase (x : Word) : (s.storeScheduleWord x).phase = if s.t = 63 then 4#4 else s.phase := by
  unfold State.storeScheduleWord; split <;> rfl
@[simp] theorem State.storeScheduleWord_ci (x : Word) : (s.storeScheduleWord x).ci = s.ci := by
  unfold State.storeScheduleWord; split <;> rfl
@[simp] theorem State.storeScheduleWord_t (x : Word) : (s.storeScheduleWord x).t = if s.t = 63 then 0 else s.t + 1 := by
  unfold State.storeScheduleWord; split <;> rfl
@[simp] theorem State.storeScheduleWord_blk (x : Word) : (s.storeScheduleWord x).blk = s.blk := by
  unfold State.storeScheduleWord; split <;> rfl
@[simp] theorem State.storeScheduleWord_nblk (x : Word) : (s.storeScheduleWord x).nblk = s.nblk := by
  unfold State.storeScheduleWord; split <;> rfl
@[simp] theorem State.storeScheduleWord_cfg (x : Word) : (s.storeScheduleWord x).cfg = s.cfg := by
  unfold State.storeScheduleWord; split <;> rfl
@[simp] theorem State.storeScheduleWord_moves (x : Word) : (s.storeScheduleWord x).moves = s.moves := by
  unfold State.storeScheduleWord; split <;> rfl
@[simp] theorem State.storeScheduleWord_responses (x : Word) : (s.storeScheduleWord x).responses = s.responses := by
  unfold State.storeScheduleWord; split <;> rfl

/-! ### `storeRound` -/

@[simp] theorem State.storeRound_hs (v : WorkVars) : (s.storeRound v).hs = s.hs := by
  unfold State.storeRound; split <;> rfl
@[simp] theorem State.storeRound_vars (v : WorkVars) : (s.storeRound v).vars = some v := by
  unfold State.storeRound; split <;> rfl
@[simp] theorem State.storeRound_w (v : WorkVars) : (s.storeRound v).w = s.w := by
  unfold State.storeRound; split <;> rfl
@[simp] theorem State.storeRound_cu (v : WorkVars) : (s.storeRound v).cu = s.cu := by
  unfold State.storeRound; split <;> rfl
@[simp] theorem State.storeRound_msg (v : WorkVars) : (s.storeRound v).msg = s.msg := by
  unfold State.storeRound; split <;> rfl
@[simp] theorem State.storeRound_msgLen (v : WorkVars) : (s.storeRound v).msgLen = s.msgLen := by
  unfold State.storeRound; split <;> rfl
@[simp] theorem State.storeRound_hex (v : WorkVars) : (s.storeRound v).hex = s.hex := by
  unfold State.storeRound; split <;> rfl
@[simp] theorem State.storeRound_state (v : WorkVars) : (s.storeRound v).state = s.state := by
  unfold State.storeRound; split <;> rfl
@[simp] theorem State.storeRound_err (v : WorkVars) : (s.storeRound v).err = s.err := by
  unfold State.storeRound; split <;> rfl
@[simp] theorem State.storeRound_cuCount (v : WorkVars) : (s.storeRound v).cuCount = s.cuCount := by
  unfold State.storeRound; split <;> rfl
@[simp] theorem State.storeRound_errPos (v : WorkVars) : (s.storeRound v).errPos = s.errPos := by
  unfold State.storeRound; split <;> rfl
@[simp] theorem State.storeRound_byteLen (v : WorkVars) : (s.storeRound v).byteLen = s.byteLen := by
  unfold State.storeRound; split <;> rfl
@[simp] theorem State.storeRound_phase (v : WorkVars) : (s.storeRound v).phase = if s.t = 63 then 6#4 else s.phase := by
  unfold State.storeRound; split <;> rfl
@[simp] theorem State.storeRound_ci (v : WorkVars) : (s.storeRound v).ci = s.ci := by
  unfold State.storeRound; split <;> rfl
@[simp] theorem State.storeRound_t (v : WorkVars) : (s.storeRound v).t = if s.t = 63 then s.t else s.t + 1 := by
  unfold State.storeRound; split <;> rfl
@[simp] theorem State.storeRound_blk (v : WorkVars) : (s.storeRound v).blk = s.blk := by
  unfold State.storeRound; split <;> rfl
@[simp] theorem State.storeRound_nblk (v : WorkVars) : (s.storeRound v).nblk = s.nblk := by
  unfold State.storeRound; split <;> rfl
@[simp] theorem State.storeRound_cfg (v : WorkVars) : (s.storeRound v).cfg = s.cfg := by
  unfold State.storeRound; split <;> rfl
@[simp] theorem State.storeRound_moves (v : WorkVars) : (s.storeRound v).moves = s.moves := by
  unfold State.storeRound; split <;> rfl
@[simp] theorem State.storeRound_responses (v : WorkVars) : (s.storeRound v).responses = s.responses := by
  unfold State.storeRound; split <;> rfl

/-! ### `padStep` -/

@[simp] theorem padStep_hs : (padStep s).hs = s.hs := rfl
@[simp] theorem padStep_vars : (padStep s).vars = s.vars := rfl
@[simp] theorem padStep_w : (padStep s).w = s.w := rfl
@[simp] theorem padStep_cu : (padStep s).cu = s.cu := rfl
@[simp] theorem padStep_msg : (padStep s).msg = padMessage s.msg s.msgLen := rfl
@[simp] theorem padStep_msgLen : (padStep s).msgLen = paddedLength s.msgLen := rfl
@[simp] theorem padStep_hex : (padStep s).hex = s.hex := rfl
@[simp] theorem padStep_state : (padStep s).state = s.state := rfl
@[simp] theorem padStep_err : (padStep s).err = s.err := rfl
@[simp] theorem padStep_cuCount : (padStep s).cuCount = s.cuCount := rfl
@[simp] theorem padStep_errPos : (padStep s).errPos = s.errPos := rfl
@[simp] theorem padStep_byteLen : (padStep s).byteLen = s.byteLen := rfl
@[simp] theorem padStep_phase : (padStep s).phase = 3#4 := rfl
@[simp] theorem padStep_ci : (padStep s).ci = s.ci := rfl
@[simp] theorem padStep_t : (padStep s).t = 0 := rfl
@[simp] theorem padStep_blk : (padStep s).blk = 0 := rfl
@[simp] theorem padStep_nblk : (padStep s).nblk = paddedLength s.msgLen / 64 := rfl
@[simp] theorem padStep_cfg : (padStep s).cfg = s.cfg := rfl
@[simp] theorem padStep_moves : (padStep s).moves = s.moves := rfl
@[simp] theorem padStep_responses : (padStep s).responses = s.responses := rfl

/-! ### The reset state -/

@[simp] theorem State.reset_hs : State.reset.hs = none := rfl
@[simp] theorem State.reset_vars : State.reset.vars = none := rfl
@[simp] theorem State.reset_w : State.reset.w = [] := rfl
@[simp] theorem State.reset_cu : State.reset.cu = [] := rfl
@[simp] theorem State.reset_msg : State.reset.msg = [] := rfl
@[simp] theorem State.reset_msgLen : State.reset.msgLen = 0 := rfl
@[simp] theorem State.reset_hex : State.reset.hex = [] := rfl
@[simp] theorem State.reset_state : State.reset.state = .idle := rfl
@[simp] theorem State.reset_err : State.reset.err = .none := rfl
@[simp] theorem State.reset_cuCount : State.reset.cuCount = 0#32 := rfl
@[simp] theorem State.reset_errPos : State.reset.errPos = 0#32 := rfl
@[simp] theorem State.reset_byteLen : State.reset.byteLen = 0#32 := rfl
@[simp] theorem State.reset_phase : State.reset.phase = 0#4 := rfl
@[simp] theorem State.reset_ci : State.reset.ci = 0 := rfl
@[simp] theorem State.reset_t : State.reset.t = 0 := rfl
@[simp] theorem State.reset_blk : State.reset.blk = 0 := rfl
@[simp] theorem State.reset_nblk : State.reset.nblk = 0 := rfl
@[simp] theorem State.reset_moves : State.reset.moves = [] := rfl
@[simp] theorem State.reset_responses : State.reset.responses = [] := rfl

end

end Sys2Proof.Machine
end

