-- ==== Sys2Proof/Laws/Ops.lean ====
section
/-! SUPPORT. One lemma for each shared operation that says everything it can do: the frames of an instruction, the
operand reads, the steps of the two agents. -/

namespace Sys2Proof.Machine

/-! ### Outcomes -/

@[simp] theorem finish_eq_next (x : Except Fault State) (t : State) : finish x = .next t ↔ x = .ok t := by
  cases x <;> simp [finish]

@[simp] theorem finish_eq_fault (x : Except Fault State) (f : Fault) : finish x = .fault f ↔ x = .error f := by
  cases x <;> simp [finish]

@[simp] theorem finish_ne_refused (x : Except Fault State) (r : Refusal) : finish x ≠ .refused r := by
  cases x <;> simp [finish]

@[simp] theorem nextState?_next (t : State) : nextState? (.next t) = some t := rfl

@[simp] theorem lastResponse_respond (s : State) (c : RespCode) (d : Word) :
    (s.respond c d).lastResponse = some ⟨c, d⟩ := by
  simp [State.lastResponse]

@[simp] theorem lastResponse_respondStatus (s : State) (c : RespCode) :
    (s.respondStatus c).lastResponse = some ⟨c, s.status⟩ := by
  simp [State.respondStatus]

/-! ### The frames of an instruction -/

/-- A host command answers BAD_STATE, or its body's state. -/
theorem hostCommand_next {i : Instr} {s t : State} {body : State → Except Fault State}
    (h : hostCommand i s body = .next t) :
    (accepted i s.state = false ∧ t = s.respondStatus .badState) ∨ (accepted i s.state = true ∧ body s = .ok t) := by
  unfold hostCommand at h
  split at h
  · next ha => exact .inr ⟨ha, (finish_eq_next _ _).mp h⟩
  · next ha =>
    refine .inl ⟨by simpa using ha, ?_⟩
    injection h with h
    exact h.symm

theorem hostCommand_of_accepted {i : Instr} {s : State} (body : State → Except Fault State)
    (h : accepted i s.state = true) : hostCommand i s body = finish (body s) := by
  simp [hostCommand, h]

theorem hostCommand_of_rejected {i : Instr} {s : State} (body : State → Except Fault State)
    (h : accepted i s.state = false) : hostCommand i s body = .next (s.respondStatus .badState) := by
  simp [hostCommand, h]

/-- A micro-operation that answers a state was enabled, and the state is its body's. -/
theorem microOp_next {i : Instr} {p : BitVec 4} {s t : State} {body : State → Except Fault State}
    (h : microOp i p s body = .next t) : accepted i s.state = true ∧ s.phase = p ∧ body s = .ok t := by
  unfold microOp at h
  split at h
  · next ha =>
    simp only [Bool.and_eq_true, beq_iff_eq] at ha
    exact ⟨ha.1, ha.2, (finish_eq_next _ _).mp h⟩
  · cases h

theorem microOp_of_enabled {i : Instr} {p : BitVec 4} {s : State} (body : State → Except Fault State)
    (h : accepted i s.state = true) (hp : s.phase = p) : microOp i p s body = finish (body s) := by
  simp [microOp, h, hp]

theorem microOp_of_not_enabled {i : Instr} {p : BitVec 4} {s : State} (body : State → Except Fault State)
    (h : ¬(accepted i s.state = true ∧ s.phase = p)) : microOp i p s body = .fault .notEnabled := by
  unfold microOp
  rw [if_neg (by simpa using h)]

/-! ### Operand reads -/

@[simp] theorem present_eq_ok {α : Type} (d : Datapath) (o : Option α) (x : α) : present d o = .ok x ↔ o = some x := by
  cases o <;> simp [present]

theorem readHs_eq_ok (s : State) (x : HashWords) : readHs s = .ok x ↔ s.hs = some x := present_eq_ok _ _ _
theorem readVars_eq_ok (s : State) (v : WorkVars) : readVars s = .ok v ↔ s.vars = some v := present_eq_ok _ _ _
theorem readW_eq_ok (s : State) (i : Nat) (x : Word) : readW s i = .ok x ↔ s.w.read i = some x := present_eq_ok _ _ _
theorem readHex_eq_ok (s : State) (j : Nat) (b : Byte) : readHex s j = .ok b ↔ s.hex.read j = some b :=
  present_eq_ok _ _ _

theorem readCu_eq_ok (s : State) (i : Nat) (u : CodeUnit) :
    readCu s i = .ok u ↔ i < s.cuCount.toNat ∧ s.cu.read i = some u := by
  unfold readCu
  split
  · next h => simp [h]
  · next h => simp [h]

theorem readMsg_eq_ok (s : State) (i : Nat) (b : Byte) :
    readMsg s i = .ok b ↔ i < s.msgLen ∧ s.msg.read i = some b := by
  unfold readMsg
  split
  · next h => simp [h]
  · next h => simp [h]

theorem present_none {α : Type} (d : Datapath) : present d (none : Option α) = .error (.absentRead d) := rfl

theorem readW_of_absent {s : State} {i : Nat} (h : s.w.read i = none) : readW s i = .error (.absentRead .w) := by
  rw [readW, h, present_none]

theorem readCu_of_absent {s : State} {i : Nat} (hi : i < s.cuCount.toNat) (h : s.cu.read i = none) :
    readCu s i = .error (.absentRead .cu) := by
  rw [readCu, if_pos hi, h, present_none]

theorem readMsg_of_beyond {s : State} {i : Nat} (h : s.msgLen ≤ i) : readMsg s i = .error .msgBeyondLength := by
  rw [readMsg, if_neg (by omega)]

theorem readMsg_of_absent {s : State} {i : Nat} (hi : i < s.msgLen) (h : s.msg.read i = none) :
    readMsg s i = .error (.absentRead .msg) := by
  rw [readMsg, if_pos hi, h, present_none]

theorem readMsg_of_present {s : State} {i : Nat} (h : i < s.msgLen ∧ s.msg.read i ≠ none) :
    ∃ b, readMsg s i = .ok b := by
  obtain ⟨b, hb⟩ := Option.ne_none_iff_exists'.mp h.2
  exact ⟨b, (readMsg_eq_ok s i b).mpr ⟨h.1, hb⟩⟩

@[simp] theorem Except.ok_bind_eq {α β : Type} (x : α) (f : α → Except Fault β) : (Except.ok x >>= f) = f x := rfl

@[simp] theorem Except.error_bind_eq {α β : Type} (e : Fault) (f : α → Except Fault β) :
    ((Except.error e : Except Fault α) >>= f) = .error e := rfl

/-- A computation in steps answers a value only if its first step does. -/
theorem bind_eq_ok {α β : Type} (x : Except Fault α) (f : α → Except Fault β) (b : β) :
    (x >>= f) = .ok b ↔ ∃ a, x = .ok a ∧ f a = .ok b := by
  cases x <;> simp

/-- The word read from MSG is the four bytes at its offset, all of them below `len(MSG)`. -/
theorem memReadWord_eq_ok (s : State) (a : Nat) (x : Word) :
    memReadWord s a = .ok x ↔ a + 3 < s.msgLen ∧ ∃ b0 b1 b2 b3, s.msg.read a = some b0 ∧ s.msg.read (a + 1) = some b1 ∧
      s.msg.read (a + 2) = some b2 ∧ s.msg.read (a + 3) = some b3 ∧ x = wordOfBytes b0 b1 b2 b3 := by
  simp only [memReadWord, bind_eq_ok, readMsg_eq_ok, Except.ok.injEq]
  constructor
  · rintro ⟨b0, ⟨_, h0⟩, b1, ⟨_, h1⟩, b2, ⟨_, h2⟩, b3, ⟨h, h3⟩, rfl⟩
    exact ⟨h, b0, b1, b2, b3, h0, h1, h2, h3, rfl⟩
  · rintro ⟨h, b0, b1, b2, b3, h0, h1, h2, h3, rfl⟩
    exact ⟨b0, ⟨by omega, h0⟩, b1, ⟨by omega, h1⟩, b2, ⟨by omega, h2⟩, b3, ⟨h, h3⟩, rfl⟩

/-- The word read from MSG stops at the first of its four bytes that cannot be read. -/
theorem memReadWord_eq_error {s : State} {a k : Nat} {f : Fault} (hk : k < 4)
    (hp : ∀ i < k, a + i < s.msgLen ∧ s.msg.read (a + i) ≠ none) (hf : readMsg s (a + k) = .error f) :
    memReadWord s a = .error f := by
  have hb : ∀ i < k, ∃ b, readMsg s (a + i) = .ok b := fun i hi => readMsg_of_present (hp i hi)
  unfold memReadWord
  obtain rfl | rfl | rfl | rfl : k = 0 ∨ k = 1 ∨ k = 2 ∨ k = 3 := by omega
  · rw [Nat.add_zero] at hf
    rw [hf, Except.error_bind_eq]
  · obtain ⟨b0, h0⟩ := hb 0 (by omega)
    rw [Nat.add_zero] at h0
    simp only [h0, hf, Except.ok_bind_eq, Except.error_bind_eq]
  · obtain ⟨b0, h0⟩ := hb 0 (by omega)
    obtain ⟨b1, h1⟩ := hb 1 (by omega)
    rw [Nat.add_zero] at h0
    simp only [h0, h1, hf, Except.ok_bind_eq, Except.error_bind_eq]
  · obtain ⟨b0, h0⟩ := hb 0 (by omega)
    obtain ⟨b1, h1⟩ := hb 1 (by omega)
    obtain ⟨b2, h2⟩ := hb 2 (by omega)
    rw [Nat.add_zero] at h0
    simp only [h0, h1, h2, hf, Except.ok_bind_eq, Except.error_bind_eq]

/-! ### The agents -/

@[simp] theorem takeMove_nil {s : State} (h : s.moves = []) : takeMove s = (.sequencer, s) := by
  simp [takeMove, h]

@[simp] theorem takeMove_cons {s : State} {m : Move} {rest : List Move} (h : s.moves = m :: rest) :
    takeMove s = (m, { s with moves := rest }) := by
  simp [takeMove, h]

/-- A host step is the instruction the word decodes to, or the answer ILLEGAL. -/
theorem hostStep_of_decode {w : Word} {i : Instr} (h : decode (.command w) = .ok i) (s : State) :
    hostStep w s = exec i s := by
  simp [hostStep, h]

theorem hostStep_of_illegal {w : Word} {e : DecodeError} (h : decode (.command w) = .error e) (s : State) :
    hostStep w s = .next (s.respondStatus .illegal) := by
  simp [hostStep, h]

/-- A sequencer step is the micro-operation PHASE selects. -/
theorem sequencerStep_of_decode {s : State} {i : Instr} (hb : s.state = .busy)
    (h : decode (.phase s.phase) = .ok i) : sequencerStep s = exec i s := by
  simp [sequencerStep, hb, h]

theorem sequencerStep_of_not_busy {s : State} (h : s.state ≠ .busy) : sequencerStep s = .fault .notEnabled := by
  simp [sequencerStep, h]

/-- A command word decodes to a command, never to a micro-operation. -/
theorem decodeCommand_isCommand {w : Word} {i : Instr} (h : decodeCommand w = .ok i) : i.isCommand = true := by
  unfold decodeCommand at h
  repeat' split at h
  all_goals first | (cases h; done) | (cases h; rfl) | skip
  all_goals
    unfold rdregOf at h
    repeat' split at h
    all_goals cases h; rfl

/-- What a step can be: one lemma over the four kinds of move. -/
theorem step_cases (s : State) :
    (s.moves = [] ∧ step s = sequencerStep s) ∨
    (∃ rest, s.moves = .sequencer :: rest ∧ step s = sequencerStep { s with moves := rest }) ∨
    (∃ w rest, s.moves = .command w :: rest ∧ step s = hostStep w { s with moves := rest }) ∨
    (∃ rest, s.moves = .poll :: rest ∧ step s = pollStep { s with moves := rest }) ∨
    (∃ rest, s.moves = .reset :: rest ∧ step s = .next ({ s with moves := rest } : State).resetEvent) := by
  cases hm : s.moves with
  | nil => exact .inl ⟨rfl, by simp [step, takeMove, hm, runMove]⟩
  | cons m rest =>
    cases m with
    | command w => exact .inr (.inr (.inl ⟨w, rest, rfl, by simp [step, takeMove, hm, runMove]⟩))
    | reset => exact .inr (.inr (.inr (.inr ⟨rest, rfl, by simp [step, takeMove, hm, runMove]⟩)))
    | poll => exact .inr (.inr (.inr (.inl ⟨rest, rfl, by simp [step, takeMove, hm, runMove]⟩)))
    | sequencer => exact .inr (.inl ⟨rest, rfl, by simp [step, takeMove, hm, runMove]⟩)

end Sys2Proof.Machine
end

