-- ==== Sys2Proof/Laws/Exec.lean ====
section
/-! SUPPORT. What each instruction can do when it answers a next state: one inversion lemma for each meaning, cited by
every invariant instead of unfolding the meaning. -/

namespace Sys2Proof.Machine

/-! ### The host commands -/

theorem exec_start_next {s t : State} (h : exec .start s = .next t) :
    (s.state = .busy ∧ t = s.respondStatus .badState) ∨
    (s.state ≠ .busy ∧ t = s.beginCall.respondStatus .ok) := by
  simp only [exec, execStart] at h
  rcases hostCommand_next h with ⟨ha, rfl⟩ | ⟨ha, hb⟩
  · exact .inl ⟨by simpa [accepted] using ha, rfl⟩
  · exact .inr ⟨by simpa [accepted] using ha, by simpa using hb.symm⟩

theorem exec_push_next {u : CodeUnit} {s t : State} (h : exec (.push u) s = .next t) :
    (s.state ≠ .load ∧ t = s.respondStatus .badState) ∨
    (s.state = .load ∧ s.cuCount.toNat = s.cfg.maxCu ∧
      t = (s.raiseError .overflow s.cuCount).respondStatus .overflow) ∨
    (s.state = .load ∧ s.cuCount.toNat ≠ s.cfg.maxCu ∧ t = (s.storeCodeUnit u).respondStatus .ok) := by
  simp only [exec, execPush] at h
  rcases hostCommand_next h with ⟨ha, rfl⟩ | ⟨ha, hb⟩
  · exact .inl ⟨by simpa [accepted] using ha, rfl⟩
  · have hl : s.state = .load := by simpa [accepted] using ha
    split at hb
    · next hc => exact .inr (.inl ⟨hl, hc, by simpa using hb.symm⟩)
    · next hc => exact .inr (.inr ⟨hl, hc, by simpa using hb.symm⟩)

theorem exec_run_next {s t : State} (h : exec .run s = .next t) :
    (s.state ≠ .load ∧ t = s.respondStatus .badState) ∨
    (s.state = .load ∧ t = s.beginRun.respondStatus .ok) := by
  simp only [exec, execRun] at h
  rcases hostCommand_next h with ⟨ha, rfl⟩ | ⟨ha, hb⟩
  · exact .inl ⟨by simpa [accepted] using ha, rfl⟩
  · exact .inr ⟨by simpa [accepted] using ha, by simpa using hb.symm⟩

/-- A read that answers a state changes nothing but the responses. -/
theorem exec_read_next {i : Instr} {s t : State} (hi : i.isCommand = true)
    (hr : i ≠ .start ∧ i ≠ .run ∧ ∀ u, i ≠ .push u) (h : exec i s = .next t) : ∃ c d, t = s.respond c d := by
  cases i with
  | start => exact absurd rfl hr.1
  | run => exact absurd rfl hr.2.1
  | push u => exact absurd rfl (hr.2.2 u)
  | rdword k =>
    simp only [exec, execRdword] at h
    rcases hostCommand_next h with ⟨_, rfl⟩ | ⟨_, hb⟩
    · exact ⟨_, _, rfl⟩
    · obtain ⟨x, _, hb⟩ := (bind_eq_ok _ _ _).mp hb
      exact ⟨_, _, by simpa using hb.symm⟩
  | rdchar j =>
    simp only [exec, execRdchar] at h
    rcases hostCommand_next h with ⟨_, rfl⟩ | ⟨_, hb⟩
    · exact ⟨_, _, rfl⟩
    · obtain ⟨x, _, hb⟩ := (bind_eq_ok _ _ _).mp hb
      exact ⟨_, _, by simpa using hb.symm⟩
  | rdregStatus | rdregCuCount | rdregErrpos | rdregByteLen =>
    simp only [exec, execRdregStatus, execRdregCuCount, execRdregErrpos, execRdregByteLen] at h
    rcases hostCommand_next h with ⟨_, rfl⟩ | ⟨_, hb⟩
    · exact ⟨_, _, rfl⟩
    · exact ⟨_, _, by simpa using hb.symm⟩
  | uEnc | uPad | uSched | uCopy | uRound | uFold | uFmt => cases hi

/-! ### The micro-operations -/

/-- What U_ENC's pseudocode can do: end of input, one group of one or two code units, or MALFORMED. -/
theorem encodeStep_cases {s t : State} (h : encodeStep s = .ok t) :
    (s.ci = s.cuCount.toNat ∧ t = { s with phase := 2#4 }) ∨
    (∃ bs n, t = s.emitGroup bs n ∧ 1 ≤ n ∧ 1 ≤ bs.length ∧ bs.length ≤ 3 * n ∧ s.ci + n ≤ s.cuCount.toNat) ∨
    (s.ci < s.cuCount.toNat ∧ t = s.raiseMalformed) := by
  unfold encodeStep at h
  split at h
  · next hc => exact .inl ⟨hc, by simpa using h.symm⟩
  · obtain ⟨u, hu, h⟩ := (bind_eq_ok _ _ _).mp h
    have hlt := ((readCu_eq_ok _ _ _).mp hu).1
    split at h
    · exact .inr (.inl ⟨emit1 u, 1, by simpa using h.symm, by simp, by simp [emit1], by simp [emit1], hlt⟩)
    split at h
    · exact .inr (.inl ⟨emit2 u, 1, by simpa using h.symm, by simp, by simp [emit2], by simp [emit2], hlt⟩)
    split at h
    · exact .inr (.inl ⟨emit3 u, 1, by simpa using h.symm, by simp, by simp [emit3], by simp [emit3], hlt⟩)
    split at h
    · unfold encodePair at h
      split at h
      · exact .inr (.inr ⟨hlt, by simpa using h.symm⟩)
      · obtain ⟨v, hv, h⟩ := (bind_eq_ok _ _ _).mp h
        have hlt2 := ((readCu_eq_ok _ _ _).mp hv).1
        split at h
        · exact .inr (.inr ⟨hlt, by simpa using h.symm⟩)
        · exact .inr (.inl ⟨_, 2, by simpa using h.symm, by simp, by simp [emit4], by simp [emit4], hlt2⟩)
    · exact .inr (.inr ⟨hlt, by simpa using h.symm⟩)

theorem exec_uEnc_next {s t : State} (h : exec .uEnc s = .next t) :
    s.state = .busy ∧ s.phase = 1#4 ∧ encodeStep s = .ok t := by
  simp only [exec, execUEnc] at h
  obtain ⟨ha, hp, hb⟩ := microOp_next h
  exact ⟨by simpa [accepted] using ha, hp, hb⟩

theorem exec_uPad_next {s t : State} (h : exec .uPad s = .next t) :
    s.state = .busy ∧ s.phase = 2#4 ∧ t = padStep s := by
  simp only [exec, execUPad] at h
  obtain ⟨ha, hp, hb⟩ := microOp_next h
  exact ⟨by simpa [accepted] using ha, hp, by simpa using hb.symm⟩

theorem exec_uSched_next {s t : State} (h : exec .uSched s = .next t) :
    s.state = .busy ∧ s.phase = 3#4 ∧ s.nblk ≠ 0 ∧ ∃ x, nextScheduleWord s = .ok x ∧ t = s.storeScheduleWord x := by
  simp only [exec, execUSched] at h
  obtain ⟨ha, hp, hb⟩ := microOp_next h
  split at hb
  · cases hb
  · next hn =>
    obtain ⟨x, hx, hb⟩ := (bind_eq_ok _ _ _).mp hb
    exact ⟨by simpa [accepted] using ha, hp, hn, x, hx, by simpa using hb.symm⟩

theorem exec_uCopy_next {s t : State} (h : exec .uCopy s = .next t) :
    s.state = .busy ∧ s.phase = 4#4 ∧
      ∃ x, s.hs = some x ∧ t = s.loadVars x.toVars := by
  simp only [exec, execUCopy] at h
  obtain ⟨ha, hp, hb⟩ := microOp_next h
  obtain ⟨x, hx, hb⟩ := (bind_eq_ok _ _ _).mp hb
  exact ⟨by simpa [accepted] using ha, hp, x, (readHs_eq_ok _ _).mp hx, by simpa using hb.symm⟩

theorem exec_uRound_next {s t : State} (h : exec .uRound s = .next t) :
    s.state = .busy ∧ s.phase = 5#4 ∧
      ∃ v x, s.vars = some v ∧ s.w.read s.t.val = some x ∧ t = s.storeRound (roundStep v (kAt s.t) x) := by
  simp only [exec, execURound] at h
  obtain ⟨ha, hp, hb⟩ := microOp_next h
  obtain ⟨v, hv, hb⟩ := (bind_eq_ok _ _ _).mp hb
  obtain ⟨x, hx, hb⟩ := (bind_eq_ok _ _ _).mp hb
  exact ⟨by simpa [accepted] using ha, hp, v, x, (readVars_eq_ok _ _).mp hv, (readW_eq_ok _ _ _).mp hx,
    by simpa using hb.symm⟩

theorem exec_uFold_next {s t : State} (h : exec .uFold s = .next t) :
    s.state = .busy ∧ s.phase = 6#4 ∧
      ∃ x v, s.hs = some x ∧ s.vars = some v ∧ t = s.storeFold (x.fold v) := by
  simp only [exec, execUFold] at h
  obtain ⟨ha, hp, hb⟩ := microOp_next h
  obtain ⟨x, hx, hb⟩ := (bind_eq_ok _ _ _).mp hb
  obtain ⟨v, hv, hb⟩ := (bind_eq_ok _ _ _).mp hb
  exact ⟨by simpa [accepted] using ha, hp, x, v, (readHs_eq_ok _ _).mp hx, (readVars_eq_ok _ _).mp hv,
    by simpa using hb.symm⟩

theorem exec_uFmt_next {s t : State} (h : exec .uFmt s = .next t) :
    s.state = .busy ∧ s.phase = 7#4 ∧
      ∃ x, s.hs = some x ∧ t = s.storeDigest x := by
  simp only [exec, execUFmt] at h
  obtain ⟨ha, hp, hb⟩ := microOp_next h
  obtain ⟨x, hx, hb⟩ := (bind_eq_ok _ _ _).mp hb
  exact ⟨by simpa [accepted] using ha, hp, x, (readHs_eq_ok _ _).mp hx, by simpa using hb.symm⟩

end Sys2Proof.Machine
end

