-- ==== Sys2Proof/Laws/PerInstr.lean ====
section
/-! SUPPORT. The laws of each instruction as syntax. -/

namespace Sys2Proof.Laws.FormatMatchesAgent

/-- The format of an instruction's code is the format of the agent that issues it: a word of format CMD for the host
(rule R13, rule R110), a value of PHASE for the sequencer (rule R120). -/
def Statement (i : Instr) : Prop :=
  (i.isCommand = true ↔ ∃ w, encode i = .command w) ∧ (i.isCommand = false ↔ ∃ p, encode i = .phase p)

theorem start : Statement .start := by simp [Statement, encode, Instr.isCommand]
theorem push (u : CodeUnit) : Statement (.push u) := by simp [Statement, encode, Instr.isCommand]
theorem run : Statement .run := by simp [Statement, encode, Instr.isCommand]
theorem rdword (k : BitVec 3) : Statement (.rdword k) := by simp [Statement, encode, Instr.isCommand]
theorem rdchar (j : BitVec 6) : Statement (.rdchar j) := by simp [Statement, encode, Instr.isCommand]
theorem rdregStatus : Statement .rdregStatus := by simp [Statement, encode, Instr.isCommand]
theorem rdregCuCount : Statement .rdregCuCount := by simp [Statement, encode, Instr.isCommand]
theorem rdregErrpos : Statement .rdregErrpos := by simp [Statement, encode, Instr.isCommand]
theorem rdregByteLen : Statement .rdregByteLen := by simp [Statement, encode, Instr.isCommand]
theorem uEnc : Statement .uEnc := by simp [Statement, encode, Instr.isCommand]
theorem uPad : Statement .uPad := by simp [Statement, encode, Instr.isCommand]
theorem uSched : Statement .uSched := by simp [Statement, encode, Instr.isCommand]
theorem uCopy : Statement .uCopy := by simp [Statement, encode, Instr.isCommand]
theorem uRound : Statement .uRound := by simp [Statement, encode, Instr.isCommand]
theorem uFold : Statement .uFold := by simp [Statement, encode, Instr.isCommand]
theorem uFmt : Statement .uFmt := by simp [Statement, encode, Instr.isCommand]

end Sys2Proof.Laws.FormatMatchesAgent
end

