-- ==== Sys2Proof/Tests/Slice0.lean ====
section
/-! SUPPORT. Tests on small states, with expected values taken from the spec, and a witness for the hypotheses of every
statement that has hypotheses. -/

open Sys2Proof Sys2Proof.Machine

namespace Sys2Proof.Tests

/-! ### Small states -/

/-- An instance of MAX_CU = 2 in a STATE, its digest registers at IV. -/
def inState (st : StateCode) : State := { State.reset with cfg := ⟨2⟩, state := st, hs := some iv }

/-- The encoder at code unit `ci` of a text, one byte already emitted. -/
def encoderAt (c : List CodeUnit) (ci : Nat) : State :=
  { inState .busy with phase := 1#4, cu := Space.fromIndex 0 c, cuCount := BitVec.ofNat 32 c.length, ci := ci
                       msg := [(0, 0x61#8)], msgLen := 1, byteLen := 1#32 }

/-- The padder after a text of bytes. -/
def padderAfter (m : List Byte) : State :=
  { inState .busy with phase := 2#4, msg := Space.fromIndex 0 m, msgLen := m.length, byteLen := BitVec.ofNat 32 m.length }

/-- The padded "abc" of vector V3. -/
def paddedAbc : List Byte := [0x61#8, 0x62#8, 0x63#8, 0x80#8] ++ List.replicate 59 0x00#8 ++ [0x18#8]

/-- The compressor at a PHASE and an index, on the padded "abc". -/
def compressorAt (p : BitVec 4) (t : Fin 64) (v : WorkVars) (ws : Space Word) : State :=
  { inState .busy with phase := p, t := t, nblk := 1, vars := some v, w := ws
                       msg := Space.fromIndex 0 paddedAbc, msgLen := 64 }

/-- Rows 62 and 63 of the round table of vector V4. -/
def row62 : WorkVars := ⟨0xd39a2165#32, 0x04d24d6c#32, 0xb85e2ce9#32, 0xb6ae8fff#32, 0xfb121210#32, 0x948d25b6#32,
  0x961f4894#32, 0xb21bad3d#32⟩
/-- Row 63. -/
def row63 : WorkVars := ⟨0x506e3058#32, 0xd39a2165#32, 0x04d24d6c#32, 0xb85e2ce9#32, 0x5ef50f24#32, 0xfb121210#32,
  0x948d25b6#32, 0x961f4894#32⟩

/-- W[0..16] of vector V4. -/
def firstWords : Space Word := Space.fromIndex 0 ([0x61626380#32] ++ List.replicate 14 0#32 ++ [0x18#32, 0x61626380#32])

/-- A space that holds one value at 64 indices. -/
def filled (x : Word) : Space Word := Space.fromIndex 0 (List.replicate 64 x)

/-- The response and the STATE after an instruction. -/
def answer (i : Instr) (s : State) : Option (Option Response × StateCode) :=
  (nextState? (exec i s)).map fun t => (t.lastResponse, t.state)

/-! ### Well-formedness: each check refuses an ill-formed code -/

theorem test_wf_refuses_opcode_zero : (Code.command 0x00000000#32).wellFormed = false := by decide
theorem test_wf_refuses_opcode_seven : (Code.command 0x70000000#32).wellFormed = false := by decide
theorem test_wf_refuses_opcode_fifteen : (Code.command 0xf000ffff#32).wellFormed = false := by decide
theorem test_wf_refuses_reserved_bits : (Code.command 0x20010061#32).wellFormed = false := by decide
theorem test_wf_refuses_start_argument : (Code.command 0x10000001#32).wellFormed = false := by decide
theorem test_wf_refuses_run_argument : (Code.command 0x30000001#32).wellFormed = false := by decide
theorem test_wf_refuses_rdword_eight : (Code.command 0x40000008#32).wellFormed = false := by decide
theorem test_wf_refuses_rdchar_sixty_four : (Code.command 0x50000040#32).wellFormed = false := by decide
theorem test_wf_refuses_rdreg_four : (Code.command 0x60000004#32).wellFormed = false := by decide
theorem test_wf_refuses_phase_zero : (Code.phase 0#4).wellFormed = false := by decide
theorem test_wf_refuses_phase_eight : (Code.phase 8#4).wellFormed = false := by decide
theorem test_wf_accepts_push : (Code.command 0x2000ffff#32).wellFormed = true := by decide

/-! ### Decoding: words written out from rule R110, rule R115, rule R120 and rule R121 -/

theorem test_decode_start : decode (.command 0b00010000000000000000000000000000#32) = .ok .start := by decide
theorem test_decode_push : decode (.command 0b00100000000000000000000011101001#32) = .ok (.push 0x00E9#16) := by decide
theorem test_decode_run : decode (.command 0b00110000000000000000000000000000#32) = .ok .run := by decide
theorem test_decode_rdword : decode (.command 0b01000000000000000000000000000110#32) = .ok (.rdword 6#3) := by decide
theorem test_decode_rdchar : decode (.command 0b01010000000000000000000000100001#32) = .ok (.rdchar 33#6) := by decide
theorem test_decode_rdreg_status : decode (.command 0b01100000000000000000000000000000#32) = .ok .rdregStatus := by decide
theorem test_decode_rdreg_cu_count : decode (.command 0b01100000000000000000000000000001#32) = .ok .rdregCuCount := by
  decide
theorem test_decode_rdreg_errpos : decode (.command 0b01100000000000000000000000000010#32) = .ok .rdregErrpos := by decide
theorem test_decode_rdreg_byte_len : decode (.command 0b01100000000000000000000000000011#32) = .ok .rdregByteLen := by
  decide
theorem test_decode_u_enc : decode (.phase 0b0001#4) = .ok .uEnc := by decide
theorem test_decode_u_pad : decode (.phase 0b0010#4) = .ok .uPad := by decide
theorem test_decode_u_sched : decode (.phase 0b0011#4) = .ok .uSched := by decide
theorem test_decode_u_copy : decode (.phase 0b0100#4) = .ok .uCopy := by decide
theorem test_decode_u_round : decode (.phase 0b0101#4) = .ok .uRound := by decide
theorem test_decode_u_fold : decode (.phase 0b0110#4) = .ok .uFold := by decide
theorem test_decode_u_fmt : decode (.phase 0b0111#4) = .ok .uFmt := by decide
theorem test_decode_table_word : decodeTableWord 32 0x60000003 = some .rdregByteLen ∧ decodeTableWord 8 6 = some .uFold := by
  decide

/-! ### The host commands (vector V6) -/

theorem test_start : answer .start State.reset = some (some ⟨.ok, 0x00000001#32⟩, .load) := by decide
theorem test_start_in_busy : answer .start (inState .busy) = some (some ⟨.badState, 0x00000002#32⟩, .busy) := by decide
theorem test_push : (nextState? (exec (.push 0x0061#16) (inState .load))).map
    (fun t => (t.cu.read 0, t.cuCount, t.lastResponse)) = some (some 0x0061#16, 1#32, some ⟨.ok, 0x00000001#32⟩) := by
  decide
theorem test_push_full : (nextState? (exec (.push 0x0063#16) { inState .load with cuCount := 2#32 })).map
    (fun t => (t.state, t.errPos, t.cuCount, t.lastResponse)) =
      some (.error, 2#32, 2#32, some ⟨.overflow, 0x00000024#32⟩) := by decide
theorem test_run : answer .run (inState .load) = some (some ⟨.ok, 0x00000002#32⟩, .busy) := by decide
theorem test_run_in_idle : answer .run State.reset = some (some ⟨.badState, 0x00000000#32⟩, .idle) := by decide
theorem test_rdword : answer (.rdword 7#3) (inState .done) = some (some ⟨.ok, 0x5be0cd19#32⟩, .done) := by decide
theorem test_rdword_in_load : answer (.rdword 0#3) (inState .load) = some (some ⟨.badState, 0x00000001#32⟩, .load) := by
  decide
theorem test_rdchar : answer (.rdchar 63#6) { inState .done with hex := [(63, 0x62#8)] } =
    some (some ⟨.ok, 0x00000062#32⟩, .done) := by decide
theorem test_rdreg_status : answer .rdregStatus { inState .error with err := .malformed } =
    some (some ⟨.ok, 0x00000014#32⟩, .error) := by decide
theorem test_rdreg_cu_count : answer .rdregCuCount { inState .busy with cuCount := 1#32 } =
    some (some ⟨.ok, 0x00000001#32⟩, .busy) := by decide
theorem test_rdreg_errpos : answer .rdregErrpos { inState .error with err := .overflow, errPos := 2#32 } =
    some (some ⟨.ok, 0x00000002#32⟩, .error) := by decide
theorem test_rdreg_errpos_in_done : answer .rdregErrpos (inState .done) =
    some (some ⟨.badState, 0x00000003#32⟩, .done) := by decide
theorem test_rdreg_byte_len : answer .rdregByteLen { inState .done with byteLen := 1#32 } =
    some (some ⟨.ok, 0x00000001#32⟩, .done) := by decide
theorem test_rdreg_byte_len_in_busy : answer .rdregByteLen (inState .busy) =
    some (some ⟨.badState, 0x00000002#32⟩, .busy) := by decide

/-! ### The encoder (vector V2) -/

theorem test_u_enc_pair : (nextState? (exec .uEnc (encoderAt [0xD83D#16, 0xDE00#16] 0))).map
    (fun t => ((List.range 6).map t.msg.read, t.byteLen, t.ci)) =
      some ([some 0x61#8, some 0xF0#8, some 0x9F#8, some 0x98#8, some 0x80#8, none], 5#32, 2) := by decide
theorem test_u_enc_unpaired : (nextState? (exec .uEnc (encoderAt [0x0061#16, 0xD83D#16] 1))).map
    (fun t => (t.state, t.err, t.errPos, t.phase, t.msgLen)) = some (.error, .malformed, 1#32, 0#4, 1) := by decide
theorem test_emission_forms :
    emit1 0x7F#16 = [0x7F#8] ∧ emit2 0x80#16 = [0xC2#8, 0x80#8] ∧ emit2 0x07FF#16 = [0xDF#8, 0xBF#8] ∧
    emit3 0x0800#16 = [0xE0#8, 0xA0#8, 0x80#8] ∧ emit3 0xFFFF#16 = [0xEF#8, 0xBF#8, 0xBF#8] ∧
    emit4 (pairCodePoint 0xDBFF#16 0xDFFF#16) = [0xF4#8, 0x8F#8, 0xBF#8, 0xBF#8] := by decide

/-! ### The padder (vector V3) -/

theorem test_u_pad_abc : (nextState? (exec .uPad (padderAfter [0x61#8, 0x62#8, 0x63#8]))).map
    (fun t => (t.msg == Space.fromIndex 0 paddedAbc, t.msgLen, t.nblk, t.phase)) = some (true, 64, 1, 3#4) := by
  decide +kernel
theorem test_padded_length : paddedLength 55 = 64 ∧ paddedLength 56 = 128 ∧ paddedLength 3221225472 = 3221225536 ∧
    lengthHigh (8 * 3221225472) = 6#32 ∧ lengthLow (8 * 536870911) = 0xFFFFFFF8#32 := by decide

/-! ### The compressor (vectors V1 and V4) -/

theorem test_word_functions :
    rotr 0x12345678#32 7 = 0xf02468ac#32 ∧ shr 0x12345678#32 3 = 0x02468acf#32 ∧ bigS0 0x12345678#32 = 0x66146474#32 ∧
    bigS1 0x12345678#32 = 0x3561abda#32 ∧ smallS0 0x12345678#32 = 0xe7fce6ee#32 ∧
    smallS1 0x12345678#32 = 0xa1f78649#32 ∧ ch 0xf0f0f0f0#32 0xff00ff00#32 0x0f0f0f0f#32 = 0xff0fff0f#32 ∧
    maj 0xf0f0f0f0#32 0xff00ff00#32 0x0f0f0f0f#32 = 0xff00ff00#32 := by decide
theorem test_u_sched_load : (nextState? (exec .uSched (compressorAt 3#4 15 iv.toVars firstWords))).map
    (fun t => (t.w.read 15, t.t, t.phase)) = some (some 0x00000018#32, 16, 3#4) := by decide +kernel
theorem test_u_sched_expand : (nextState? (exec .uSched (compressorAt 3#4 17 iv.toVars firstWords))).map
    (fun t => (t.w.read 17, t.t, t.phase)) = some (some 0x000f0000#32, 18, 3#4) := by decide +kernel
theorem test_u_copy : (nextState? (exec .uCopy (compressorAt 4#4 9 row63 []))).map (fun t => (t.vars, t.t, t.phase)) =
    some (some iv.toVars, 0, 5#4) := by decide +kernel
theorem test_u_round_zero : (nextState? (exec .uRound (compressorAt 5#4 0 iv.toVars firstWords))).map
    (fun t => (t.vars, t.t, t.phase)) =
      some (some ⟨0x5d6aebcd#32, 0x6a09e667#32, 0xbb67ae85#32, 0x3c6ef372#32, 0xfa2a4622#32, 0x510e527f#32,
        0x9b05688c#32, 0x1f83d9ab#32⟩, 1, 5#4) := by decide +kernel
theorem test_u_round_last : (nextState? (exec .uRound (compressorAt 5#4 63 row62 [(63, 0x12b1edeb#32)]))).map
    (fun t => (t.vars, t.phase)) = some (some row63, 6#4) := by decide +kernel
theorem test_u_fold : (nextState? (exec .uFold (compressorAt 6#4 63 row63 []))).map (fun t => (t.hs, t.blk, t.t, t.phase)) =
    some (some ⟨0xba7816bf#32, 0x8f01cfea#32, 0x414140de#32, 0x5dae2223#32, 0xb00361a3#32, 0x96177a9c#32,
      0xb410ff61#32, 0xf20015ad#32⟩, 1, 0, 7#4) := by decide +kernel

/-! ### The formatter (vector V5) -/

theorem test_u_fmt : (nextState? (exec .uFmt { inState .busy with
      phase := 7#4, hs := some ⟨0x0000000a#32, 0x00000b00#32, 0x0c000000#32, 1#32, 0xdeadbeef#32, 0x01234567#32,
        0x89abcdef#32, 0x00f00f00#32⟩ })).map
    (fun t => ([t.hex.read 0, t.hex.read 7, t.hex.read 39, t.hex.read 63], t.state, t.phase)) =
      some ([some 0x30#8, some 0x61#8, some 0x66#8, some 0x30#8], .done, 0#4) := by decide +kernel

/-! ### The host's notation: a quoted character is any one character, and a comment follows it -/

theorem test_push_of_a_quote_with_comment :
    assemble [['P', 'U', 'S', 'H', ' ', '\'', '\'', '\'', ' ', ';', ' ', 'a']] = some [.command 0x20000027#32] := by decide
theorem test_push_of_a_semicolon_with_comment :
    assemble [['P', 'U', 'S', 'H', ' ', '\'', ';', '\'', ';', '\'']] = some [.command 0x2000003b#32] := by decide

/-! ### The agents and the reset state -/

theorem test_reset_memory_wf : State.reset.msg.wf = true ∧ State.reset.hex.wf = true := by decide
theorem test_illegal_word_in_load : (nextState? (hostStep 0x10010000#32 (inState .load))).map
    (fun t => (t.lastResponse, t.state)) = some (some ⟨.illegal, 0x00000001#32⟩, .load) := by decide
theorem test_placed_micro_operation_runs : (nextState? (step (State.reset.withFetchWord 8 5))).map
    (fun t => (t.t, t.phase)) = some (1, 5#4) := by decide +kernel

/-! ### Witnesses: states that meet the hypotheses of the statements -/

theorem witness_ResetEventAbandonsTheCall :
    ({ inState .busy with moves := [.reset, .poll] } : State).moves = .reset :: [.poll] := rfl

theorem witness_OnlyStartChangesAnIdleState :
    State.reset.state = .idle ∧ Instr.run.isCommand = true ∧ Instr.run ≠ .start := by decide

theorem witness_IllegalWordsAnswerIllegal_each_condition :
    decode (.command 0x00000000#32) = .error .opcodeUnassigned ∧ decode (.command 0x70000000#32) = .error .opcodeUnassigned ∧
    decode (.command 0xf000ffff#32) = .error .opcodeUnassigned ∧ decode (.command 0x10010000#32) = .error .reservedNonzero ∧
    decode (.command 0x10000001#32) = .error .mbzNonzero ∧ decode (.command 0x30008000#32) = .error .mbzNonzero ∧
    decode (.command 0x40000008#32) = .error .mbzNonzero ∧ decode (.command 0x50000040#32) = .error .mbzNonzero ∧
    decode (.command 0x60000004#32) = .error .mbzNonzero := by decide

theorem witness_EncodeOfDecode : decode (.command 0x5000003f#32) = .ok (.rdchar 63#6) ∧ decode (.phase 7#4) = .ok .uFmt := by
  decide

theorem witness_StepRunsTheDecodedCommand :
    ({ State.reset with moves := [.command 0x10000000#32] } : State).moves = .command 0x10000000#32 :: [] ∧
    decode (.command 0x10000000#32) = .ok .start := by decide

theorem witness_StepRunsTheMicroOperation :
    (encoderAt [] 0).state = .busy ∧ decode (.phase (encoderAt [] 0).phase) = .ok .uEnc ∧ (encoderAt [] 0).moves = [] ∧
    ({ encoderAt [] 0 with moves := [.sequencer] } : State).moves = .sequencer :: [] := by decide

theorem witness_PlacedCommandRunsNext : 32 ≤ 32 ∧ decodeTableWord 32 0x2000ffff = some (.push 0xffff#16) := by decide

theorem witness_SequencerStepsOnlyWhenBusy :
    (encoderAt [] 0).state = .busy ∧ decode (.phase (encoderAt [] 0).phase) = .ok .uEnc ∧ (inState .done).state ≠ .busy ∧
    Instr.uEnc.isCommand = false ∧ ¬((inState .load).state = .busy ∧ encode .uEnc = .phase (inState .load).phase) ∧
    ¬((padderAfter []).state = .busy ∧ encode .uEnc = .phase (padderAfter []).phase) := by decide

theorem witness_PhaseNeverHeldFaults :
    ({ inState .busy with phase := 8#4 } : State).state = .busy ∧ 8 ≤ ({ inState .busy with phase := 8#4 } : State).phase.toNat ∧
    ({ inState .busy with phase := 15#4 } : State).state = .busy ∧ 8 ≤ ({ inState .busy with phase := 15#4 } : State).phase.toNat := by
  decide

theorem witness_PollAsksUntilNotBusy :
    ({ inState .busy with moves := [.poll] } : State).moves = .poll :: [] ∧
    ({ inState .done with moves := [.poll] } : State).moves = .poll :: [] := ⟨rfl, rfl⟩

theorem witness_AcceptanceTable_accepted_and_rejected :
    Instr.rdregErrpos.isCommand = true ∧ (inState .error).state ∈ [StateCode.error] ∧
    (nextState? (exec .rdregErrpos (inState .error))).isSome = true ∧ (inState .done).state ∉ [StateCode.error] := by decide

theorem witness_StartBeginsACall : (inState .error).state ≠ .busy := by decide

/-- Of the clause "accepted only in" in the statements of the commands: a STATE outside each list. -/
theorem witness_acceptedOnlyIn :
    (inState .busy).state ∉ [StateCode.idle, .load, .done, .error] ∧ (inState .busy).state ∉ [StateCode.load] ∧
    (inState .error).state ∉ [StateCode.done] := by decide

/-- Of the clause "selected by" in the statements of the micro-operations: another STATE, and another PHASE. -/
theorem witness_selectedBy :
    ¬((inState .load).state = .busy ∧ (inState .load).phase = 2#4) ∧
    ¬((encoderAt [] 0).state = .busy ∧ (encoderAt [] 0).phase = 2#4) := by decide

theorem witness_PushAppendsTheCodeUnit_empty_and_last_place :
    (inState .load).state = .load ∧ (inState .load).err = .none ∧ (inState .load).cuCount.toNat ≠ (inState .load).cfg.maxCu ∧
    ({ inState .load with cuCount := 1#32 } : State).state = .load ∧ ({ inState .load with cuCount := 1#32 } : State).err = .none ∧
    ({ inState .load with cuCount := 1#32 } : State).cuCount.toNat ≠ ({ inState .load with cuCount := 1#32 } : State).cfg.maxCu := by
  decide

theorem witness_PushOnAFullBufferOverflows :
    ({ inState .load with cuCount := 2#32 } : State).state = .load ∧
    ({ inState .load with cuCount := 2#32 } : State).cuCount.toNat = ({ inState .load with cuCount := 2#32 } : State).cfg.maxCu := by
  decide

theorem witness_RunStartsTheSequencer : (inState .load).state = .load ∧ (inState .load).err = .none := by decide

theorem witness_RdwordAnswersTheHashWord :
    (inState .done).state = .done ∧ (inState .done).hs = some iv ∧
    [iv.h0, iv.h1, iv.h2, iv.h3, iv.h4, iv.h5, iv.h6, iv.h7][(0#3).toNat]? = some 0x6a09e667#32 ∧
    [iv.h0, iv.h1, iv.h2, iv.h3, iv.h4, iv.h5, iv.h6, iv.h7][(7#3).toNat]? = some 0x5be0cd19#32 := by decide

theorem witness_RdcharAnswersTheCharacter :
    ({ inState .done with hex := Space.fromIndex 0 (format iv) } : State).state = .done ∧
    ({ inState .done with hex := Space.fromIndex 0 (format iv) } : State).hex.read (0#6).toNat = some 0x36#8 ∧
    ({ inState .done with hex := Space.fromIndex 0 (format iv) } : State).hex.read (63#6).toNat = some 0x39#8 := by
  decide +kernel

theorem witness_ReadsAreIdempotentAndPushIsNot :
    (nextState? (exec (.rdword 7#3) (inState .done))).isSome = true ∧ (inState .done).state ≠ .busy ∧
    (nextState? (exec .start (inState .done))).isSome = true ∧ (inState .load).state = .load ∧
    (inState .load).cuCount.toNat < (inState .load).cfg.maxCu ∧ (inState .load).cfg.Legal ∧
    (nextState? (exec (.push 0#16) (inState .load))).isSome = true ∧ (inState .busy).state = .busy := by decide

theorem witness_EncoderHandsOverAtTheEnd :
    (encoderAt [0x61#16] 1).state = .busy ∧ (encoderAt [0x61#16] 1).phase = 1#4 ∧
    (encoderAt [0x61#16] 1).ci = (encoderAt [0x61#16] 1).cuCount.toNat := by decide

theorem witness_EncoderHandsOverAtTheEnd_invariant :
    MachineInv { inState .busy with phase := 1#4 } ∧
    ({ inState .busy with phase := 1#4 } : State).ci = ({ inState .busy with phase := 1#4 } : State).cuCount.toNat := by
  refine ⟨?_, by decide⟩
  constructor <;> simp [inState, State.reset, Config.Legal, Space.within, Space.presentBelow, Space.wf]

/-- The common hypotheses of the emission statements, at code unit 0 of a text. -/
def emits (c : List CodeUnit) (u : CodeUnit) : Prop :=
  (encoderAt c 0).state = .busy ∧ (encoderAt c 0).phase = 1#4 ∧ (encoderAt c 0).ci < (encoderAt c 0).cuCount.toNat ∧
  (encoderAt c 0).cu.read (encoderAt c 0).ci = some u

theorem witness_EncoderEmitsOneByte :
    emits [0x00#16] 0x00#16 ∧ (0x00#16).toNat < 0x80 ∧ emits [0x7F#16] 0x7F#16 ∧ (0x7F#16).toNat < 0x80 := by
  unfold emits; decide

theorem witness_EncoderEmitsTwoBytes :
    emits [0x80#16] 0x80#16 ∧ 0x80 ≤ (0x80#16).toNat ∧ (0x80#16).toNat < 0x800 ∧
    emits [0x7FF#16] 0x7FF#16 ∧ 0x80 ≤ (0x7FF#16).toNat ∧ (0x7FF#16).toNat < 0x800 := by
  unfold emits; decide

theorem witness_EncoderEmitsThreeBytes :
    emits [0x800#16] 0x800#16 ∧ 0x800 ≤ (0x800#16).toNat ∧ (0x800#16).toNat < 0xD800 ∧
    emits [0xD7FF#16] 0xD7FF#16 ∧ 0x800 ≤ (0xD7FF#16).toNat ∧ (0xD7FF#16).toNat < 0xD800 ∧
    emits [0xE000#16] 0xE000#16 ∧ 0x800 ≤ (0xE000#16).toNat ∧ 0xDFFF < (0xE000#16).toNat ∧
    emits [0xFFFF#16] 0xFFFF#16 ∧ 0x800 ≤ (0xFFFF#16).toNat ∧ 0xDFFF < (0xFFFF#16).toNat := by
  unfold emits; decide

/-- The further hypotheses of EncoderEmitsAPair. -/
def pairs (u v : CodeUnit) : Prop :=
  (encoderAt [u, v] 0).ci + 1 < (encoderAt [u, v] 0).cuCount.toNat ∧
  (encoderAt [u, v] 0).cu.read ((encoderAt [u, v] 0).ci + 1) = some v ∧
  0xD800 ≤ u.toNat ∧ u.toNat ≤ 0xDBFF ∧ 0xDC00 ≤ v.toNat ∧ v.toNat ≤ 0xDFFF

theorem witness_EncoderEmitsAPair_first_and_last :
    (emits [0xD800#16, 0xDC00#16] 0xD800#16 ∧ pairs 0xD800#16 0xDC00#16) ∧
    emits [0xDBFF#16, 0xDFFF#16] 0xDBFF#16 ∧ pairs 0xDBFF#16 0xDFFF#16 := by
  unfold emits pairs; decide

/-- The second case of UnpairedSurrogatesAreMalformed: a high surrogate and a code unit that is no low surrogate. -/
def unpaired (u v : CodeUnit) : Prop :=
  emits [u, v] u ∧ 0xD800 ≤ u.toNat ∧ u.toNat ≤ 0xDBFF ∧ (encoderAt [u, v] 0).ci + 1 ≠ (encoderAt [u, v] 0).cuCount.toNat ∧
  (encoderAt [u, v] 0).cu.read ((encoderAt [u, v] 0).ci + 1) = some v ∧ (v.toNat < 0xDC00 ∨ 0xDFFF < v.toNat)

theorem witness_UnpairedSurrogatesAreMalformed_last_unit :
    emits [0xDBFF#16] 0xDBFF#16 ∧ 0xD800 ≤ (0xDBFF#16).toNat ∧ (0xDBFF#16).toNat ≤ 0xDBFF ∧
    (encoderAt [0xDBFF#16] 0).ci + 1 = (encoderAt [0xDBFF#16] 0).cuCount.toNat := by
  unfold emits; decide

theorem witness_UnpairedSurrogatesAreMalformed_no_low_unit :
    unpaired 0xD800#16 0xDBFF#16 ∧ unpaired 0xDBFF#16 0xE000#16 := by
  unfold unpaired emits; decide

theorem witness_UnpairedSurrogatesAreMalformed_lone_low_unit :
    emits [0xDC00#16] 0xDC00#16 ∧ 0xDC00 ≤ (0xDC00#16).toNat ∧ (0xDC00#16).toNat ≤ 0xDFFF ∧
    emits [0xDFFF#16] 0xDFFF#16 ∧ 0xDC00 ≤ (0xDFFF#16).toNat ∧ (0xDFFF#16).toNat ≤ 0xDFFF := by
  unfold emits; decide

theorem witness_PaddedLengthIsLeast : 128 % 64 = 0 ∧ 56 + 9 ≤ 128 := by decide

theorem witness_PadderWritesMarkerZerosAndLength : ∀ n ∈ [0, 536870911, 536870912, 3221225472],
    ({ padderAfter [] with msgLen := n } : State).state = .busy ∧ ({ padderAfter [] with msgLen := n } : State).phase = 2#4 ∧
    8 * ({ padderAfter [] with msgLen := n } : State).msgLen < 2 ^ 64 := by decide +kernel

theorem witness_PadHasItsFourProperties :
    8 * [0x61#8].length < 2 ^ 64 ∧ (padderAfter [0x61#8]).state = .busy ∧ (padderAfter [0x61#8]).phase = 2#4 ∧
    [0x61#8].length = (padderAfter [0x61#8]).msgLen ∧ ∀ j < [0x61#8].length, (padderAfter [0x61#8]).msg.read j = [0x61#8][j]? := by
  decide

/-- The hypotheses of ScheduleLoadsAMessageWord. -/
def loads (s : State) (b0 b1 b2 b3 : Byte) : Prop :=
  s.state = .busy ∧ s.phase = 3#4 ∧ 1 ≤ s.nblk ∧ s.t.val ≤ 15 ∧ 64 * s.blk + 4 * s.t.val + 3 < s.msgLen ∧
  s.msg.read (64 * s.blk + 4 * s.t.val) = some b0 ∧ s.msg.read (64 * s.blk + 4 * s.t.val + 1) = some b1 ∧
  s.msg.read (64 * s.blk + 4 * s.t.val + 2) = some b2 ∧ s.msg.read (64 * s.blk + 4 * s.t.val + 3) = some b3

theorem witness_ScheduleLoadsAMessageWord_first_and_last :
    loads (compressorAt 3#4 0 row63 []) 0x61#8 0x62#8 0x63#8 0x80#8 ∧
    loads (compressorAt 3#4 15 row63 []) 0x00#8 0x00#8 0x00#8 0x18#8 := by unfold loads; decide +kernel

theorem witness_ScheduleLoadsAMessageWord_invariant :
    MachineInv (compressorAt 3#4 0 row63 []) ∧ (compressorAt 3#4 0 row63 []).state = .busy ∧
    (compressorAt 3#4 0 row63 []).phase = 3#4 ∧ (compressorAt 3#4 0 row63 []).t.val ≤ 15 := by
  refine ⟨?_, by decide⟩
  have hl : paddedAbc.length = 64 := by decide
  constructor <;> simp [compressorAt, inState, State.reset, Config.Legal, Config.pmax, Space.within, Space.presentBelow,
    Space.wf, Space.wf_fromIndex, Space.read_fromIndex, hl]

theorem witness_ScheduleExpandsByOneWord_first_and_last : ∀ t ∈ [(16 : Fin 64), 63],
    (compressorAt 3#4 t row63 (filled 1#32)).state = .busy ∧ (compressorAt 3#4 t row63 (filled 1#32)).phase = 3#4 ∧
    1 ≤ (compressorAt 3#4 t row63 (filled 1#32)).nblk ∧ 16 ≤ t.val ∧ (filled 1#32).read (t.val - 16) = some 1#32 ∧
    (filled 1#32).read (t.val - 15) = some 1#32 ∧ (filled 1#32).read (t.val - 7) = some 1#32 ∧
    (filled 1#32).read (t.val - 2) = some 1#32 := by decide +kernel

theorem witness_CopyLoadsTheWorkingVariables :
    (compressorAt 4#4 0 row63 []).state = .busy ∧ (compressorAt 4#4 0 row63 []).phase = 4#4 ∧
    (compressorAt 4#4 0 row63 []).hs = some iv := by decide

theorem witness_RoundComputesTheWorkingVariables_first_and_last : ∀ t ∈ [(0 : Fin 64), 63],
    (compressorAt 5#4 t row62 (filled 1#32)).state = .busy ∧ (compressorAt 5#4 t row62 (filled 1#32)).phase = 5#4 ∧
    (compressorAt 5#4 t row62 (filled 1#32)).vars = some row62 ∧ (filled 1#32).read t.val = some 1#32 := by decide +kernel

theorem witness_FoldAddsTheWorkingVariables_last_block_and_not : ∀ n ∈ [1, 2],
    ({ compressorAt 6#4 0 row63 [] with nblk := n } : State).state = .busy ∧
    ({ compressorAt 6#4 0 row63 [] with nblk := n } : State).phase = 6#4 ∧
    ({ compressorAt 6#4 0 row63 [] with nblk := n } : State).hs = some iv ∧
    ({ compressorAt 6#4 0 row63 [] with nblk := n } : State).vars = some row63 := by decide

theorem witness_CompressorRunsOneBlock :
    (compressorAt 3#4 0 row63 []).state = .busy ∧ (compressorAt 3#4 0 row63 []).phase = 3#4 ∧
    (compressorAt 3#4 0 row63 []).t = 0 ∧ (compressorAt 3#4 0 row63 []).moves = [] ∧ (compressorAt 3#4 0 row63 []).hs = some iv ∧
    (compressorAt 3#4 0 row63 []).blk < (compressorAt 3#4 0 row63 []).nblk ∧ paddedAbc.length = 64 ∧
    64 * (compressorAt 3#4 0 row63 []).blk + 64 ≤ (compressorAt 3#4 0 row63 []).msgLen ∧
    ∀ j < 64, (compressorAt 3#4 0 row63 []).msg.read (64 * (compressorAt 3#4 0 row63 []).blk + j) = paddedAbc[j]? := by
  decide +kernel

theorem witness_FormatterRendersTheDigest :
    (compressorAt 7#4 0 row63 []).state = .busy ∧ (compressorAt 7#4 0 row63 []).phase = 7#4 ∧
    (compressorAt 7#4 0 row63 []).hs = some iv ∧
    [iv.h0, iv.h1, iv.h2, iv.h3, iv.h4, iv.h5, iv.h6, iv.h7][0]? = some 0x6a09e667#32 ∧
    [iv.h0, iv.h1, iv.h2, iv.h3, iv.h4, iv.h5, iv.h6, iv.h7][7]? = some 0x5be0cd19#32 := by decide

theorem witness_DigestStringIs64LowercaseHex : 0x36#8 ∈ format iv := by decide

/-- The reset state, about to take START, meets the invariant, and the step is a next state. -/
theorem witness_EveryStepKeepsTheInvariant :
    MachineInv { State.reset with moves := [.command 0x10000000#32] } ∧
    (nextState? (step { State.reset with moves := [.command 0x10000000#32] })).isSome = true := by
  refine ⟨?_, by decide⟩
  constructor <;> simp [State.reset, Config.Legal, Space.within, Space.presentBelow, Space.wf]

theorem witness_InvariantStatesNeverFault : MachineInv State.reset := by
  constructor <;> simp [State.reset, Config.Legal, Space.within, Space.presentBelow, Space.wf]

/-- Two different states with one view. -/
theorem witness_HostObservesOnlyItsView :
    inState .load ≠ { inState .load with cu := [(0, 0x61#16)], ci := 5 } ∧
    (inState .load).hostView = ({ inState .load with cu := [(0, 0x61#16)], ci := 5 } : State).hostView ∧
    (nextState? (hostStep 0x10000000#32 (inState .load))).isSome = true := by decide

/-- A state with no hash state in DONE: its reads stop. -/
theorem witness_HostObservesOnlyItsView_fault :
    hostStep 0x40000000#32 { inState .done with hs := none } = .fault (.absentRead .hs) := rfl

theorem witness_OnlyTheNamedWritersWrite :
    (nextState? (exec .start State.reset)).map (·.hs.isSome) = some true ∧
    (nextState? (exec (.push 1#16) (inState .load))).map (fun t => (t.cu.length, t.cuCount)) = some (1, 1#32) ∧
    (nextState? (exec .uEnc (encoderAt [0x62#16] 0))).map (fun t => (t.msg.length, t.msgLen)) = some (2, 2) ∧
    (nextState? (exec .uCopy (compressorAt 4#4 0 row63 []))).map (·.vars) = some (some iv.toVars) ∧
    (nextState? (exec .uSched (compressorAt 3#4 0 row63 []))).map (·.w.length) = some 1 ∧
    (nextState? (exec .uFmt (compressorAt 7#4 0 row63 []))).map (·.hex.length) = some 64 := by decide +kernel

theorem witness_StateFieldTransitions_each_clause :
    answer .start (inState .done) = some (some ⟨.ok, 1#32⟩, .load) ∧ answer .run (inState .load) = some (some ⟨.ok, 2#32⟩, .busy) ∧
    answer (.push 1#16) { inState .load with cuCount := 2#32 } = some (some ⟨.overflow, 0x24#32⟩, .error) ∧
    answer .uEnc (encoderAt [0xDC00#16] 0) = some (none, .error) ∧
    answer .uFmt { inState .busy with phase := 7#4 } = some (none, .done) := by decide +kernel

theorem witness_PhaseOrder : Instr.uPad.isCommand = false ∧
    (nextState? (exec .uPad (padderAfter []))).map (·.phase) = some 3#4 := by decide +kernel

theorem witness_BusyCallIsUndisturbed :
    (inState .busy).state = .busy ∧ Instr.start.isCommand = true ∧
    (nextState? (step { inState .busy with moves := [.command 0x10000000#32] })).map (·.state) = some .busy ∧
    (nextState? (step { inState .busy with moves := [.poll] })).map (·.moves) = some [.sequencer, .poll] := by decide

theorem witness_ErrorIsLeftOnlyByStartOrReset_each_clause :
    (nextState? (step { inState .error with moves := [.command 0x10000000#32] })).map (·.state) = some .load ∧
    (nextState? (step { inState .error with moves := [.reset] })).map (·.state) = some .idle ∧
    (nextState? (step { inState .error with moves := [.command 0x30000000#32] })).map (·.state) = some .error := by decide

theorem witness_AbsentReadsFault_host_reads :
    (inState .done).state = .done ∧ ({ inState .done with hs := none } : State).hs = none ∧
    (inState .done).hex.read (63#6).toNat = none := by decide

theorem witness_AbsentReadsFault_encoder :
    (encoderAt [0x61#16] 2).state = .busy ∧ (encoderAt [0x61#16] 2).phase = 1#4 ∧
    (encoderAt [0x61#16] 2).cuCount.toNat < (encoderAt [0x61#16] 2).ci ∧
    ({ encoderAt [0x61#16] 0 with cu := [] } : State).ci < ({ encoderAt [0x61#16] 0 with cu := [] } : State).cuCount.toNat ∧
    ({ encoderAt [0x61#16] 0 with cu := [] } : State).cu.read 0 = none := by decide

theorem witness_AbsentReadsFault_second_unit :
    ({ encoderAt [0xD800#16] 0 with cuCount := 2#32 } : State).ci + 1 < ({ encoderAt [0xD800#16] 0 with cuCount := 2#32 } : State).cuCount.toNat ∧
    ({ encoderAt [0xD800#16] 0 with cuCount := 2#32 } : State).cu.read 0 = some 0xD800#16 ∧ 0xD800 ≤ (0xD800#16).toNat ∧
    (0xD800#16).toNat ≤ 0xDBFF ∧ ({ encoderAt [0xD800#16] 0 with cuCount := 2#32 } : State).cu.read 1 = none := by decide

/-- U_SCHED at T = 15 on a message that ends inside the word, at its last byte and at its first. -/
theorem witness_AbsentReadsFault_message_end : ∀ p ∈ [(63, 3), (60, 0)],
    (compressorAt 3#4 15 row63 []).state = .busy ∧ (compressorAt 3#4 15 row63 []).phase = 3#4 ∧
    (compressorAt 3#4 15 row63 []).nblk ≠ 0 ∧ p.2 < 4 ∧
    (∀ i < p.2, 60 + i < p.1 ∧ ({ compressorAt 3#4 15 row63 [] with msgLen := p.1 } : State).msg.read (60 + i) ≠ none) ∧
    ({ compressorAt 3#4 15 row63 [] with msgLen := p.1 } : State).msgLen ≤ 60 + p.2 := by decide +kernel

/-- U_SCHED at T = 15 on a message whose last byte, below its length, is absent. -/
theorem witness_AbsentReadsFault_message_byte :
    (∀ i < 3, 60 + i < 64 ∧
      ({ compressorAt 3#4 15 row63 [] with msg := Space.fromIndex 0 (paddedAbc.take 63) } : State).msg.read (60 + i) ≠ none) ∧
    60 + 3 < ({ compressorAt 3#4 15 row63 [] with msg := Space.fromIndex 0 (paddedAbc.take 63) } : State).msgLen ∧
    ({ compressorAt 3#4 15 row63 [] with msg := Space.fromIndex 0 (paddedAbc.take 63) } : State).msg.read (60 + 3) = none := by
  decide +kernel

theorem witness_AbsentReadsFault_compressor :
    (inState .busy).nblk = 0 ∧ (compressorAt 3#4 63 row63 firstWords).nblk ≠ 0 ∧
    16 ≤ (compressorAt 3#4 63 row63 firstWords).t.val ∧
    (∃ d ∈ [16, 15, 7, 2], (compressorAt 3#4 63 row63 firstWords).w.read ((compressorAt 3#4 63 row63 firstWords).t.val - d) = none) ∧
    (inState .busy).vars = none ∧ (compressorAt 5#4 63 row63 []).vars ≠ none ∧ (compressorAt 5#4 63 row63 []).w.read 63 = none ∧
    ({ compressorAt 6#4 0 row63 [] with hs := none } : State).hs = none ∧ (compressorAt 6#4 0 row63 []).hs ≠ none ∧
    ({ compressorAt 6#4 0 row63 [] with vars := none } : State).vars = none := by decide +kernel

theorem witness_HashCallMeetsTheContract :
    (⟨2⟩ : Config).Legal ∧ (inState .done).state ≠ .busy ∧ [0x0061#16, 0xD83D#16].length ≤ (inState .done).cfg.maxCu ∧
    [Move.sequencer, .command 0x60000000#32, .sequencer, .command 0x60000001#32].all Move.allowedInCall = true ∧
    [Move.sequencer, .command 0x60000000#32, .sequencer, .command 0x60000001#32].count .sequencer =
      callSteps [0x0061#16, 0xD83D#16] := by decide

/-- A well-formed text: "a" takes 134 steps (vector V7), and 133 the empty text. -/
theorem witness_HashCallMeetsTheContract_well_formed :
    callSteps [] = 133 ∧ callSteps [0x61#16] = 134 ∧ (List.replicate 133 Move.sequencer).all Move.allowedInCall = true ∧
    (List.replicate 133 Move.sequencer).count .sequencer = callSteps [] := by decide +kernel

/-- Two interleavings of the malformed text of vector V7.15, which takes two steps of the sequencer. -/
theorem witness_InterleavingsGiveOneResult :
    (inState .done).cfg.Legal ∧ (inState .done).state ≠ .busy ∧ [0x0061#16, 0xD83D#16].length ≤ (inState .done).cfg.maxCu ∧
    [Move.sequencer, .command 0x60000000#32, .sequencer, .command 0x60000001#32].all Move.allowedInCall = true ∧
    [Move.sequencer, .command 0x60000000#32, .sequencer, .command 0x60000001#32].count .sequencer =
      callSteps [0x0061#16, 0xD83D#16] ∧
    [Move.sequencer, .sequencer].all Move.allowedInCall = true ∧
    [Move.sequencer, .sequencer].count .sequencer = callSteps [0x0061#16, 0xD83D#16] := by decide

theorem witness_PolledCallEnds :
    (inState .idle).cfg.Legal ∧ (inState .idle).state ≠ .busy ∧ [0x61#16].length ≤ (inState .idle).cfg.maxCu ∧
    ({ inState .idle with moves := callMoves [0x61#16] ++ [.poll] } : State).moves = callMoves [0x61#16] ++ [.poll] := by decide

theorem witness_TooLongATextOverflows :
    (inState .idle).cfg.Legal ∧ (inState .idle).state ≠ .busy ∧ (inState .idle).cfg.maxCu < [1#16, 2#16, 3#16].length ∧
    ({ inState .idle with moves := callMoves [1#16, 2#16, 3#16] } : State).moves = callMoves [1#16, 2#16, 3#16] := by decide

end Sys2Proof.Tests
end

section
/-! PROOFS. The invariant of the machine is kept by every step: a rule for each index-space predicate, the bounds of
the padder, one lemma for each update of the state, and then the steps of the two agents. -/

namespace Sys2Proof.Machine

/-! ### The two predicates of the invariant over index spaces -/

section
variable {α : Type} {sp : Space α}

/-- A sequence of writes below `n` stays within `n`. -/
theorem Space.within_writeAll {n i : Nat} (h : sp.within n) (xs : List α) (hi : i + xs.length ≤ n) :
    (sp.writeAll i xs).within n := by
  intro k hk
  rw [Space.read_writeAll_outside xs sp (by omega)]
  exact h k hk

theorem Space.within_write {n i : Nat} (h : sp.within n) (x : α) (hi : i < n) : (sp.write i x).within n :=
  Space.within_writeAll h [x] hi

/-- A sequence written where the present part ends extends the present part by its length. -/
theorem Space.presentBelow_writeAll {i : Nat} (h : sp.presentBelow i) (xs : List α) :
    (sp.writeAll i xs).presentBelow (i + xs.length) := by
  intro k hk
  by_cases hki : k < i
  · rw [Space.read_writeAll_outside xs sp (.inl hki)]
    exact h k hki
  · rw [Space.read_writeAll, if_pos ⟨by omega, hk⟩, List.getElem?_eq_getElem (by omega)]
    rfl

theorem Space.presentBelow_write {i : Nat} (h : sp.presentBelow i) (x : α) : (sp.write i x).presentBelow (i + 1) :=
  Space.presentBelow_writeAll h [x]

theorem Space.presentBelow_zero : sp.presentBelow 0 := fun _ hi => absurd hi (Nat.not_lt_zero _)

end

theorem Space.within_fromIndex_zero {α : Type} {n : Nat} (xs : List α) (h : xs.length ≤ n) :
    (Space.fromIndex 0 xs).within n := by
  intro k hk
  rw [Space.read_fromIndex, if_pos (Nat.zero_le k)]
  exact List.getElem?_eq_none (by omega)

/-! ### The padder's bounds (rule R181 to rule R188) -/

theorem paddedLength_ge (len : Nat) : len + 9 ≤ paddedLength len := by
  unfold paddedLength
  omega

theorem paddedLength_eq_blocks (len : Nat) : paddedLength len = 64 * (paddedLength len / 64) := by
  unfold paddedLength
  omega

/-- The padding of a message of at most three bytes for each of `MAX_CU` code units fits MSG (rule R81). -/
theorem paddedLength_le_pmax {c : Config} {len : Nat} (h : len ≤ 3 * c.maxCu) : paddedLength len ≤ c.pmax := by
  unfold paddedLength Config.pmax
  omega

theorem three_mul_maxCu_le_pmax (c : Config) : 3 * c.maxCu ≤ c.pmax := by
  unfold Config.pmax
  omega

/-- Padding writes nothing from the padded length on. -/
theorem padMessage_within {m : Memory} {n len : Nat} (h : Space.within m n) (hp : paddedLength len ≤ n) :
    Space.within (padMessage m len) n := by
  have hge := paddedLength_ge len
  have marker := Space.within_write h 0x80#8 (i := len) (by omega)
  have zeros := Space.within_writeAll marker (List.replicate (paddedLength len - len - 9) 0x00#8) (i := len + 1)
    (by rw [List.length_replicate]; omega)
  have high := Space.within_writeAll zeros (wordBytes (lengthHigh (8 * len))) (i := paddedLength len - 8)
    (by simp only [wordBytes, List.length_cons, List.length_nil]; omega)
  exact Space.within_writeAll high (wordBytes (lengthLow (8 * len)))
    (by simp only [wordBytes, List.length_cons, List.length_nil]; omega)

/-- The padded message has no hole: marker, zeros and length field each begin where the part before ends. -/
theorem padMessage_presentBelow {m : Memory} {len : Nat} (h : Space.presentBelow m len) :
    Space.presentBelow (padMessage m len) (paddedLength len) := by
  have hge := paddedLength_ge len
  have marker := Space.presentBelow_write h 0x80#8
  have zeros := Space.presentBelow_writeAll marker (List.replicate (paddedLength len - len - 9) 0x00#8)
  rw [List.length_replicate, show len + 1 + (paddedLength len - len - 9) = paddedLength len - 8 by omega] at zeros
  have high := Space.presentBelow_writeAll zeros (wordBytes (lengthHigh (8 * len)))
  rw [show paddedLength len - 8 + (wordBytes (lengthHigh (8 * len))).length = paddedLength len - 4 by
    simp only [wordBytes, List.length_cons, List.length_nil]; omega] at high
  have low := Space.presentBelow_writeAll high (wordBytes (lengthLow (8 * len)))
  rwa [show paddedLength len - 4 + (wordBytes (lengthLow (8 * len))).length = paddedLength len by
    simp only [wordBytes, List.length_cons, List.length_nil]; omega] at low

/-- The digest string has 64 characters (rule R265). -/
theorem format_length (x : HashWords) : (format x).length = 64 := rfl

/-! ### What PHASE asks of a state -/

/-- The clauses of `MachineInv` that speak of PHASE; no other clause does. -/
structure StageInv (s : State) : Prop where
  busyPhase : s.state = .busy ↔ s.phase ≠ 0#4
  phaseHeld : s.phase.toNat ≤ 7
  encodedLength : s.phase = 1#4 ∨ s.phase = 2#4 → s.msgLen = s.byteLen.toNat
  paddedBlocks : 3 ≤ s.phase.toNat → 1 ≤ s.nblk ∧ s.msgLen = 64 * s.nblk
  blkLt : 3 ≤ s.phase.toNat → s.phase.toNat ≤ 6 → s.blk < s.nblk
  blkDone : s.phase = 7#4 → s.blk = s.nblk
  schedulePresent : s.phase = 3#4 → s.w.presentBelow s.t.val
  scheduleWhole : 4 ≤ s.phase.toNat → s.phase.toNat ≤ 6 → s.w.presentBelow 64
  varsPresent : s.phase = 5#4 ∨ s.phase = 6#4 → s.vars.isSome = true

section
variable {s : State}

theorem StageInv.atRest (hb : s.state ≠ .busy) (hp : s.phase = 0#4) : StageInv s := by
  constructor <;> simp [hb, hp]

theorem StageInv.encoding (hb : s.state = .busy) (hp : s.phase = 1#4 ∨ s.phase = 2#4)
    (hlen : s.msgLen = s.byteLen.toNat) : StageInv s := by
  rcases hp with hp | hp <;> constructor <;> simp [hb, hp, hlen]

theorem StageInv.scheduling (hb : s.state = .busy) (hp : s.phase = 3#4)
    (hpad : 1 ≤ s.nblk ∧ s.msgLen = 64 * s.nblk) (hblk : s.blk < s.nblk) (hw : s.w.presentBelow s.t.val) :
    StageInv s := by
  constructor <;> simp [hb, hp, hpad, hblk, hw]

theorem StageInv.compressing (hb : s.state = .busy)
    (hp : s.phase = 4#4 ∨ (s.phase = 5#4 ∨ s.phase = 6#4) ∧ s.vars.isSome = true)
    (hpad : 1 ≤ s.nblk ∧ s.msgLen = 64 * s.nblk) (hblk : s.blk < s.nblk) (hw : s.w.presentBelow 64) :
    StageInv s := by
  rcases hp with hp | ⟨hp | hp, hv⟩ <;> constructor <;> simp [*]

theorem StageInv.formatting (hb : s.state = .busy) (hp : s.phase = 7#4)
    (hpad : 1 ≤ s.nblk ∧ s.msgLen = 64 * s.nblk) (hblk : s.blk = s.nblk) : StageInv s := by
  constructor <;> simp [hb, hp, hpad, hblk]

end

/-! ### Consequences of the invariant -/

section
variable {s : State} (h : MachineInv s)
include h

theorem MachineInv.err_eq_none (hs : s.state ≠ .error) : s.err = .none := by
  by_contra he
  exact hs (h.errState.mp he)

/-- No CU_COUNT reaches the width of its register (rule R11, rule R49). -/
theorem MachineInv.cuCount_le : s.cuCount.toNat ≤ 2 ^ 30 := h.countLe.trans h.cfgLegal.2

/-- The message encoded so far has at most three bytes for each of `MAX_CU` code units (rule R12). -/
theorem MachineInv.byteLen_le : s.byteLen.toNat ≤ 3 * s.cfg.maxCu := by
  have := h.byteLenLe
  have := h.ciLe
  have := h.countLe
  omega

/-! ### The updates of the host's commands and of reset -/

theorem MachineInv.withMoves (ms : List Move) : MachineInv { s with moves := ms } := { h with }

theorem MachineInv.respond (c : RespCode) (d : Word) : MachineInv (s.respond c d) := { h with }

theorem MachineInv.respondStatus (c : RespCode) : MachineInv (s.respondStatus c) := h.respond c _

/-- Entry to ERROR from a call in progress, with the ERRPOS that rule R50 gives it. -/
theorem MachineInv.raiseError {e : ErrCode} {info : Word} (hidle : s.state ≠ .idle) (he : e ≠ .none)
    (hm : e = .malformed → info.toNat < s.cuCount.toNat)
    (ho : e = .overflow → info = s.cuCount ∧ s.cuCount.toNat = s.cfg.maxCu) : MachineInv (s.raiseError e info) :=
  { StageInv.atRest (s := s.raiseError e info) (by simp) rfl, h with
    errState := by simp [he]
    errPosMalformed := hm, errPosOverflow := ho, errPosNone := fun hn => absurd hn he
    hsPresent := fun _ => h.hsPresent hidle
    hexRenders := by simp }

theorem MachineInv.beginCall : MachineInv s.beginCall :=
  { StageInv.atRest (s := s.beginCall) (by simp) rfl, h with
    errState := by simp
    countLe := Nat.zero_le _
    cuPresent := Space.presentBelow_zero
    errPosMalformed := by simp, errPosOverflow := by simp, errPosNone := fun _ => rfl
    hsPresent := fun _ => rfl
    hexRenders := by simp
    msgPresent := Space.presentBelow_zero
    ciLe := Nat.le_refl _, byteLenLe := Nat.le_refl _, blkLe := Nat.le_refl _, nblkLe := Nat.zero_le _ }

theorem MachineInv.storeCodeUnit (u : CodeUnit) (hl : s.state = .load) (hc : s.cuCount.toNat ≠ s.cfg.maxCu) :
    MachineInv (s.storeCodeUnit u) := by
  have herr : s.err = .none := h.err_eq_none (by simp [hl])
  have hlt : s.cuCount.toNat < s.cfg.maxCu := Nat.lt_of_le_of_ne h.countLe hc
  have hnext : (s.storeCodeUnit u).cuCount.toNat = s.cuCount.toNat + 1 := by
    have := h.cuCount_le
    simp only [State.storeCodeUnit_cuCount, BitVec.toNat_add, BitVec.toNat_ofNat]
    omega
  exact { h with
    cuWf := Space.wf_write _ _ _ h.cuWf
    cuWithin := Space.within_write h.cuWithin u hlt
    countLe := hnext ▸ hlt
    cuPresent := hnext ▸ Space.presentBelow_write h.cuPresent u
    errPosMalformed := by simp [herr], errPosOverflow := by simp [herr]
    ciLe := hnext ▸ Nat.le_succ_of_le h.ciLe }

theorem MachineInv.beginRun (hl : s.state = .load) : MachineInv s.beginRun := by
  have herr : s.err = .none := h.err_eq_none (by simp [hl])
  exact { StageInv.encoding (s := s.beginRun) rfl (.inl rfl) rfl, h with
    errState := by simp [herr]
    hsPresent := fun _ => h.hsPresent (by simp [hl])
    hexRenders := by simp
    msgPresent := Space.presentBelow_zero
    ciLe := Nat.zero_le _, byteLenLe := Nat.zero_le _ }

theorem MachineInv.resetEvent : MachineInv s.resetEvent := by
  constructor
  case cfgLegal => exact h.cfgLegal
  all_goals simp [Space.wf, Space.within, Space.presentBelow]

/-! ### The updates of the encoder and the padder -/

/-- The encoder at the end of its input hands over to the padder. -/
theorem MachineInv.endEncoding (hb : s.state = .busy) (hp : s.phase = 1#4) : MachineInv { s with phase := 2#4 } :=
  { StageInv.encoding (s := { s with phase := 2#4 }) hb (.inr rfl) (h.encodedLength (.inl hp)), h with }

/-- A group of `n` code units of at most `3 * n` bytes fits both BYTE_LEN and MSG. -/
theorem MachineInv.emitGroup (hb : s.state = .busy) (hp : s.phase = 1#4) {bs : List Byte} {n : Nat}
    (hbs : bs.length ≤ 3 * n) (hn : s.ci + n ≤ s.cuCount.toNat) : MachineInv (s.emitGroup bs n) := by
  have hlen : s.msgLen = s.byteLen.toNat := h.encodedLength (.inl hp)
  have hbytes : s.byteLen.toNat + bs.length ≤ 3 * (s.ci + n) := by
    have := h.byteLenLe
    omega
  have hfit : s.msgLen + bs.length ≤ s.cfg.pmax := by
    have := h.countLe
    have := three_mul_maxCu_le_pmax s.cfg
    omega
  have hnext : (s.emitGroup bs n).byteLen.toNat = s.byteLen.toNat + bs.length := by
    have := h.cuCount_le
    simp only [State.emitGroup_byteLen, BitVec.toNat_add, BitVec.toNat_ofNat]
    omega
  have hlen' : (s.emitGroup bs n).msgLen = (s.emitGroup bs n).byteLen.toNat := by
    rw [hnext, State.emitGroup_msgLen, hlen]
  exact { StageInv.encoding (s := s.emitGroup bs n) hb (.inl hp) hlen', h with
    msgWf := Space.wf_writeAll _ _ _ h.msgWf
    msgWithin := Space.within_writeAll h.msgWithin bs hfit
    msgPresent := Space.presentBelow_writeAll h.msgPresent bs
    ciLe := hn
    byteLenLe := hnext ▸ hbytes }

theorem MachineInv.raiseMalformed (hb : s.state = .busy) (hc : s.ci < s.cuCount.toNat) :
    MachineInv s.raiseMalformed := by
  refine h.raiseError (by simp [hb]) (by simp) (fun _ => ?_) (by simp)
  rw [BitVec.toNat_ofNat]
  exact (Nat.mod_le _ _).trans_lt hc

theorem MachineInv.encodeStep {t : State} (hb : s.state = .busy) (hp : s.phase = 1#4)
    (ht : encodeStep s = .ok t) : MachineInv t := by
  rcases encodeStep_cases ht with ⟨_, rfl⟩ | ⟨bs, n, rfl, _, _, hbs, hn⟩ | ⟨hc, rfl⟩
  · exact h.endEncoding hb hp
  · exact h.emitGroup hb hp hbs hn
  · exact h.raiseMalformed hb hc

/-- The padder leaves a positive number of whole blocks that fit MSG, and starts the compressor at block 0. -/
theorem MachineInv.padStep (hb : s.state = .busy) (hp : s.phase = 2#4) : MachineInv (padStep s) := by
  have hlen : s.msgLen ≤ 3 * s.cfg.maxCu := (h.encodedLength (.inr hp)).trans_le h.byteLen_le
  have hfit : paddedLength s.msgLen ≤ s.cfg.pmax := paddedLength_le_pmax hlen
  have hblocks : paddedLength s.msgLen = 64 * (paddedLength s.msgLen / 64) := paddedLength_eq_blocks s.msgLen
  have hpos : 1 ≤ paddedLength s.msgLen / 64 := by
    have := paddedLength_ge s.msgLen
    omega
  have hwf := Memory.wf_padMessage s.msg s.msgLen h.msgWf
  have hwithin := padMessage_within h.msgWithin hfit
  have hpresent := padMessage_presentBelow h.msgPresent
  have hstage : StageInv (Machine.padStep s) := .scheduling hb rfl ⟨hpos, hblocks⟩ hpos Space.presentBelow_zero
  unfold Machine.padStep at hstage ⊢
  -- From here on only these facts about the padded message matter; its bytes would be unfolded by the checks below.
  generalize padMessage s.msg s.msgLen = m at hwf hwithin hpresent hstage ⊢
  exact { hstage, h with
    msgWf := hwf, msgWithin := hwithin, msgPresent := hpresent
    blkLe := Nat.zero_le _, nblkLe := Nat.div_le_div_right hfit }

/-! ### The updates of the compressor and the formatter -/

/-- After `W[T]` is written the schedule is present below `T + 1`: whole when T was 63. -/
theorem MachineInv.storeScheduleWord (x : Word) (hb : s.state = .busy) (hp : s.phase = 3#4) :
    MachineInv (s.storeScheduleWord x) := by
  have hw : (s.w.write s.t.val x).presentBelow (s.t.val + 1) := Space.presentBelow_write (h.schedulePresent hp) x
  have hpad : 1 ≤ s.nblk ∧ s.msgLen = 64 * s.nblk := h.paddedBlocks (by simp [hp])
  have hblk : s.blk < s.nblk := h.blkLt (by simp [hp]) (by simp [hp])
  have hstage : StageInv (s.storeScheduleWord x) := by
    by_cases ht : s.t = 63
    · refine .compressing (by simpa using hb) (.inl (by simp [ht])) (by simpa using hpad) (by simpa using hblk) ?_
      simpa [ht] using hw
    · have hnext : (s.t + 1).val = s.t.val + 1 := Fin.val_add_one_of_lt (Fin.lt_last_iff_ne_last.mpr ht)
      refine .scheduling (by simpa using hb) (by simp [ht, hp]) (by simpa using hpad) (by simpa using hblk) ?_
      simpa [ht, hnext] using hw
  unfold State.storeScheduleWord at hstage ⊢
  split_ifs at hstage ⊢
  all_goals exact { hstage, h with
    wWf := Space.wf_write _ _ _ h.wWf
    wWithin := Space.within_write h.wWithin x s.t.isLt }

theorem MachineInv.loadVars (v : WorkVars) (hb : s.state = .busy) (hp : s.phase = 4#4) :
    MachineInv (s.loadVars v) := by
  have hstage : StageInv (s.loadVars v) :=
    .compressing hb (.inr ⟨.inl rfl, rfl⟩) (h.paddedBlocks (by simp [hp])) (h.blkLt (by simp [hp]) (by simp [hp]))
      (h.scheduleWhole (by simp [hp]) (by simp [hp]))
  exact { hstage, h with }

theorem MachineInv.storeRound (v : WorkVars) (hb : s.state = .busy) (hp : s.phase = 5#4) :
    MachineInv (s.storeRound v) := by
  have hpad : 1 ≤ s.nblk ∧ s.msgLen = 64 * s.nblk := h.paddedBlocks (by simp [hp])
  have hblk : s.blk < s.nblk := h.blkLt (by simp [hp]) (by simp [hp])
  have hw : s.w.presentBelow 64 := h.scheduleWhole (by simp [hp]) (by simp [hp])
  unfold State.storeRound
  split
  · exact { StageInv.compressing (s := { s with vars := some v, phase := 6#4 }) hb (.inr ⟨.inr rfl, rfl⟩) hpad hblk hw,
      h with }
  · exact { h with schedulePresent := by simp [hp], varsPresent := fun _ => rfl }

/-- The fold moves to the next block, or to the formatter after the last one. -/
theorem MachineInv.storeFold (x : HashWords) (hb : s.state = .busy) (hp : s.phase = 6#4) :
    MachineInv (s.storeFold x) := by
  have hpad : 1 ≤ s.nblk ∧ s.msgLen = 64 * s.nblk := h.paddedBlocks (by simp [hp])
  have hblk : s.blk < s.nblk := h.blkLt (by simp [hp]) (by simp [hp])
  have hstage : StageInv (s.storeFold x) := by
    by_cases hlast : s.blk + 1 = s.nblk
    · exact .formatting hb (if_pos hlast) hpad hlast
    · exact .scheduling hb (if_neg hlast) hpad (Nat.lt_of_le_of_ne hblk hlast) Space.presentBelow_zero
  exact { hstage, h with
    hsPresent := fun _ => rfl
    hexRenders := by simp [hb]
    blkLe := hblk }

theorem MachineInv.storeDigest {x : HashWords} (hb : s.state = .busy) (hx : s.hs = some x) :
    MachineInv (s.storeDigest x) := by
  have herr : s.err = .none := h.err_eq_none (by simp [hb])
  exact { StageInv.atRest (s := s.storeDigest x) (by simp) rfl, h with
    hexWf := Space.wf_fromIndex _ _
    hexWithin := Space.within_fromIndex_zero _ (format_length x).le
    errState := by simp [herr]
    hsPresent := fun _ => by simp [hx]
    hexRenders := fun _ => ⟨x, hx, fun j _ => by simp [Space.read_fromIndex]⟩ }

/-! ### Instructions and agents -/

/-- Every instruction keeps the invariant. -/
theorem MachineInv.exec {i : Instr} {t : State} (ht : exec i s = .next t) : MachineInv t := by
  cases i with
  | start =>
    rcases exec_start_next ht with ⟨_, rfl⟩ | ⟨_, rfl⟩
    · exact h.respondStatus _
    · exact h.beginCall.respondStatus _
  | push u =>
    rcases exec_push_next ht with ⟨_, rfl⟩ | ⟨hl, hfull, rfl⟩ | ⟨hl, hroom, rfl⟩
    · exact h.respondStatus _
    · exact (h.raiseError (by simp [hl]) (by simp) (by simp) fun _ => ⟨rfl, hfull⟩).respondStatus _
    · exact (h.storeCodeUnit u hl hroom).respondStatus _
  | run =>
    rcases exec_run_next ht with ⟨_, rfl⟩ | ⟨hl, rfl⟩
    · exact h.respondStatus _
    · exact (h.beginRun hl).respondStatus _
  | rdword | rdchar | rdregStatus | rdregCuCount | rdregErrpos | rdregByteLen =>
    obtain ⟨c, d, rfl⟩ := exec_read_next rfl (by simp) ht
    exact h.respond c d
  | uEnc =>
    obtain ⟨hb, hp, henc⟩ := exec_uEnc_next ht
    exact h.encodeStep hb hp henc
  | uPad =>
    obtain ⟨hb, hp, rfl⟩ := exec_uPad_next ht
    exact h.padStep hb hp
  | uSched =>
    obtain ⟨hb, hp, _, x, _, rfl⟩ := exec_uSched_next ht
    exact h.storeScheduleWord x hb hp
  | uCopy =>
    obtain ⟨hb, hp, x, _, rfl⟩ := exec_uCopy_next ht
    exact h.loadVars x.toVars hb hp
  | uRound =>
    obtain ⟨hb, hp, v, x, _, _, rfl⟩ := exec_uRound_next ht
    exact h.storeRound _ hb hp
  | uFold =>
    obtain ⟨hb, hp, x, v, _, _, rfl⟩ := exec_uFold_next ht
    exact h.storeFold _ hb hp
  | uFmt =>
    obtain ⟨hb, _, x, hx, rfl⟩ := exec_uFmt_next ht
    exact h.storeDigest hb hx

theorem MachineInv.hostStep {w : Word} {t : State} (ht : hostStep w s = .next t) : MachineInv t := by
  cases hd : decode (.command w) with
  | ok i => exact h.exec ((hostStep_of_decode hd s).symm.trans ht)
  | error e =>
    rw [hostStep_of_illegal hd] at ht
    injection ht with ht
    exact ht ▸ h.respondStatus _

theorem MachineInv.sequencerStep {t : State} (ht : sequencerStep s = .next t) : MachineInv t := by
  unfold Machine.sequencerStep at ht
  split at ht
  · split at ht
    · exact h.exec ht
    · cases ht
    · cases ht
  · cases ht

/-- A turn of POLL is a host step, after which only the moves to come may change. -/
theorem MachineInv.pollStep {t : State} (ht : pollStep s = .next t) : MachineInv t := by
  unfold Machine.pollStep at ht
  split at ht
  · next u hu =>
    injection ht with ht
    subst ht
    split
    · exact (h.hostStep hu).withMoves _
    · exact h.hostStep hu
  · cases ht
  · cases ht

/-- A step is one of the agents' moves, and each of them keeps the invariant. -/
theorem MachineInv.step {t : State} (ht : step s = .next t) : MachineInv t := by
  rcases step_cases s with ⟨_, hs⟩ | ⟨rest, _, hs⟩ | ⟨w, rest, _, hs⟩ | ⟨rest, _, hs⟩ | ⟨rest, _, hs⟩
  all_goals rw [hs] at ht
  · exact h.sequencerStep ht
  · exact (h.withMoves rest).sequencerStep ht
  · exact (h.withMoves rest).hostStep ht
  · exact (h.withMoves rest).pollStep ht
  · injection ht with ht
    exact ht ▸ (h.withMoves rest).resetEvent

end

/-- Settles O47: the invariant is kept by every instruction (`MachineInv.exec`), hence by the host's steps, the
sequencer's, POLL and reset, which are all the moves there are. -/
theorem everyStepKeepsTheInvariant : Obligations.EveryStepKeepsTheInvariant := fun _ _ h ht => h.step ht

end Sys2Proof.Machine
end

section
/-! PROOFS. Which instruction a PHASE or an agent selects, what an enabled micro-operation runs, and from that the
sequencer's steps and the progress of a machine that meets its invariant. -/

namespace Sys2Proof.Machine

/-! ### The frame of each instruction -/

/-- Every micro-operation runs its body in the frame of the PHASE it is encoded by (rule R54, rule R120). -/
theorem exec_eq_microOp {i : Instr} (hi : i.isCommand = false) :
    ∃ p body, encode i = .phase p ∧ ∀ s, exec i s = microOp i p s body := by
  cases i with
  | start | push | run | rdword | rdchar | rdregStatus | rdregCuCount | rdregErrpos | rdregByteLen => cases hi
  | uEnc | uPad | uSched | uCopy | uRound | uFold | uFmt => exact ⟨_, _, rfl, fun _ => rfl⟩

theorem accepted_microOp_iff {i : Instr} (hi : i.isCommand = false) (st : StateCode) :
    accepted i st = true ↔ st = .busy := by
  cases i with
  | start | push | run | rdword | rdchar | rdregStatus | rdregCuCount | rdregErrpos | rdregByteLen => cases hi
  | uEnc | uPad | uSched | uCopy | uRound | uFold | uFmt => exact beq_iff_eq

/-- A micro-operation that PHASE does not select, or outside BUSY, has no step (rule R54). -/
theorem exec_microOp_of_not_enabled {i : Instr} {s : State} (hi : i.isCommand = false)
    (h : ¬(s.state = .busy ∧ encode i = .phase s.phase)) : exec i s = .fault .notEnabled := by
  obtain ⟨p, body, hp, hexec⟩ := exec_eq_microOp hi
  rw [hexec]
  refine microOp_of_not_enabled body fun ⟨ha, hs⟩ => h ⟨(accepted_microOp_iff hi _).mp ha, ?_⟩
  rw [hp, hs]

/-- A host command completes if its body answers a state wherever STATE accepts the command. -/
theorem hostCommand_completes {i : Instr} {s : State} {body : State → Except Fault State}
    (h : accepted i s.state = true → ∃ t, body s = .ok t) : ∃ t, hostCommand i s body = .next t := by
  cases ha : accepted i s.state with
  | true =>
    obtain ⟨t, ht⟩ := h ha
    exact ⟨t, by rw [hostCommand_of_accepted body ha, finish_eq_next, ht]⟩
  | false => exact ⟨_, hostCommand_of_rejected body ha⟩

/-! ### What an enabled instruction runs -/

section
variable {s : State}

theorem exec_rdword_of_done (hd : s.state = .done) (k : BitVec 3) :
    exec (.rdword k) s = finish (readHs s >>= fun x => .ok (s.respond .ok (x.word k))) := by
  rw [exec, execRdword, hostCommand_of_accepted _ (by simp [accepted, hd])]

theorem exec_rdchar_of_done (hd : s.state = .done) (j : BitVec 6) :
    exec (.rdchar j) s = finish (readHex s j.toNat >>= fun b => .ok (s.respond .ok (b.setWidth 32))) := by
  rw [exec, execRdchar, hostCommand_of_accepted _ (by simp [accepted, hd])]

variable (hb : s.state = .busy)
include hb

theorem exec_uEnc_of_enabled (hp : s.phase = 1#4) : exec .uEnc s = finish (encodeStep s) :=
  microOp_of_enabled _ (by simp [accepted, hb]) hp

theorem exec_uPad_of_enabled (hp : s.phase = 2#4) : exec .uPad s = .next (padStep s) := by
  rw [exec, execUPad, microOp_of_enabled _ (by simp [accepted, hb]) hp]; rfl

theorem exec_uSched_of_no_block (hp : s.phase = 3#4) (hn : s.nblk = 0) : exec .uSched s = .fault .zeroBlocks := by
  simp [exec, execUSched, microOp, accepted, finish, hb, hp, hn]

theorem exec_uSched_of_enabled (hp : s.phase = 3#4) (hn : s.nblk ≠ 0) :
    exec .uSched s = finish (nextScheduleWord s >>= fun x => .ok (s.storeScheduleWord x)) := by
  simp [exec, execUSched, microOp, accepted, hb, hp, hn]

theorem exec_uCopy_of_enabled (hp : s.phase = 4#4) :
    exec .uCopy s = finish (readHs s >>= fun x => .ok (s.loadVars x.toVars)) := by
  rw [exec, execUCopy, microOp_of_enabled _ (by simp [accepted, hb]) hp]

theorem exec_uRound_of_enabled (hp : s.phase = 5#4) :
    exec .uRound s = finish (readVars s >>= fun v => readW s s.t.val >>= fun x =>
      .ok (s.storeRound (roundStep v (kAt s.t) x))) := by
  rw [exec, execURound, microOp_of_enabled _ (by simp [accepted, hb]) hp]

theorem exec_uFold_of_enabled (hp : s.phase = 6#4) :
    exec .uFold s = finish (readHs s >>= fun x => readVars s >>= fun v => .ok (s.storeFold (x.fold v))) := by
  rw [exec, execUFold, microOp_of_enabled _ (by simp [accepted, hb]) hp]

theorem exec_uFmt_of_enabled (hp : s.phase = 7#4) :
    exec .uFmt s = finish (readHs s >>= fun x => .ok (s.storeDigest x)) := by
  rw [exec, execUFmt, microOp_of_enabled _ (by simp [accepted, hb]) hp]

end

/-! ### The micro-operation that PHASE selects -/

/-- PHASE 1 to 7, the values that select a micro-operation (rule R55). -/
theorem phase_cases {p : BitVec 4} (h0 : p ≠ 0#4) (h7 : p.toNat ≤ 7) :
    p = 1#4 ∨ p = 2#4 ∨ p = 3#4 ∨ p = 4#4 ∨ p = 5#4 ∨ p = 6#4 ∨ p = 7#4 := by
  revert p
  decide

theorem decode_phase_of_neverHeld {p : BitVec 4} (h : 8 ≤ p.toNat) : decode (.phase p) = .error .phaseNeverHeld := by
  revert p
  decide

theorem sequencerStep_of_phase {s : State} {p : BitVec 4} {i : Instr} (hb : s.state = .busy) (hp : s.phase = p)
    (hd : decode (.phase p) = .ok i) : sequencerStep s = exec i s :=
  sequencerStep_of_decode hb (hp ▸ hd)

/-- Settles O13: the frame `microOp` refuses the step outside BUSY and in another PHASE, whichever the
micro-operation (`exec_microOp_of_not_enabled`). -/
theorem sequencerStepsOnlyWhenBusy : Obligations.SequencerStepsOnlyWhenBusy := fun _ =>
  ⟨fun _ => sequencerStep_of_decode, sequencerStep_of_not_busy, fun _ => exec_microOp_of_not_enabled⟩

/-- Settles O11: with no move left, or the sequencer's move first, a step is `sequencerStep`. -/
theorem stepRunsTheMicroOperation : Obligations.StepRunsTheMicroOperation := by
  intro s i hb hd
  constructor
  · intro hm
    rw [step, takeMove_nil hm]
    exact sequencerStep_of_decode hb hd
  · intro rest hm
    rw [step, takeMove_cons hm]
    exact sequencerStep_of_decode (s := { s with moves := rest }) hb hd

/-- Settles O14. -/
theorem phaseNeverHeldFaults : Obligations.PhaseNeverHeldFaults := by
  intro s hb hp
  simp [sequencerStep, hb, decode_phase_of_neverHeld hp]

/-! ### Progress: what the invariant makes present -/

section
variable {s : State} (h : MachineInv s)
include h

theorem MachineInv.readHs_ok (hs : s.state ≠ .idle) : ∃ x, readHs s = .ok x := by
  obtain ⟨x, hx⟩ := Option.isSome_iff_exists.mp (h.hsPresent hs)
  exact ⟨x, (readHs_eq_ok s x).mpr hx⟩

theorem MachineInv.readVars_ok (hp : s.phase = 5#4 ∨ s.phase = 6#4) : ∃ v, readVars s = .ok v := by
  obtain ⟨v, hv⟩ := Option.isSome_iff_exists.mp (h.varsPresent hp)
  exact ⟨v, (readVars_eq_ok s v).mpr hv⟩

theorem MachineInv.readHex_ok (hd : s.state = .done) {j : Nat} (hj : j < 64) : ∃ b, readHex s j = .ok b := by
  obtain ⟨x, _, hx⟩ := h.hexRenders hd
  refine ⟨(format x)[j]'(by rwa [format_length]), (readHex_eq_ok s j _).mpr ?_⟩
  rw [hx j hj, List.getElem?_eq_getElem]

theorem MachineInv.readCu_ok {i : Nat} (hi : i < s.cuCount.toNat) : ∃ u, readCu s i = .ok u := by
  obtain ⟨u, hu⟩ := Option.isSome_iff_exists.mp (h.cuPresent i hi)
  exact ⟨u, (readCu_eq_ok s i u).mpr ⟨hi, hu⟩⟩

theorem MachineInv.readMsg_ok {i : Nat} (hi : i < s.msgLen) : ∃ b, readMsg s i = .ok b :=
  readMsg_of_present ⟨hi, Option.isSome_iff_ne_none.mp (h.msgPresent i hi)⟩

theorem MachineInv.memReadWord_ok {a : Nat} (ha : a + 3 < s.msgLen) : ∃ x, memReadWord s a = .ok x := by
  obtain ⟨b0, h0⟩ := h.readMsg_ok (i := a) (by omega)
  obtain ⟨b1, h1⟩ := h.readMsg_ok (i := a + 1) (by omega)
  obtain ⟨b2, h2⟩ := h.readMsg_ok (i := a + 2) (by omega)
  obtain ⟨b3, h3⟩ := h.readMsg_ok ha
  exact ⟨wordOfBytes b0 b1 b2 b3, by simp only [memReadWord, h0, h1, h2, h3, Except.ok_bind_eq]⟩

/-! ### Progress of the stages -/

theorem MachineInv.encodePair_ok (u : CodeUnit) (hlt : s.ci < s.cuCount.toNat) : ∃ t, encodePair s u = .ok t := by
  unfold encodePair
  split
  · exact ⟨_, rfl⟩
  · obtain ⟨v, hv⟩ := h.readCu_ok (i := s.ci + 1) (by omega)
    rw [hv, Except.ok_bind_eq]
    split <;> exact ⟨_, rfl⟩

theorem MachineInv.encodeStep_ok : ∃ t, Machine.encodeStep s = .ok t := by
  have hle := h.ciLe
  unfold Machine.encodeStep
  split
  · exact ⟨_, rfl⟩
  · have hlt : s.ci < s.cuCount.toNat := by omega
    obtain ⟨u, hu⟩ := h.readCu_ok hlt
    have hpair := h.encodePair_ok u hlt
    rw [hu, Except.ok_bind_eq]
    split_ifs
    exacts [⟨_, rfl⟩, ⟨_, rfl⟩, ⟨_, rfl⟩, hpair, ⟨_, rfl⟩]

/-- The schedule's next word is a message word inside the block in progress, or comes from words below T. -/
theorem MachineInv.nextScheduleWord_ok (hp : s.phase = 3#4) : ∃ x, nextScheduleWord s = .ok x := by
  unfold nextScheduleWord
  split
  · have hblk : s.blk < s.nblk := h.blkLt (by simp [hp]) (by simp [hp])
    obtain ⟨_, hlen⟩ := h.paddedBlocks (by simp [hp])
    exact h.memReadWord_ok (by omega)
  · have hread : ∀ d, 1 ≤ d → d ≤ 16 → ∃ x, readW s (s.t.val - d) = .ok x := fun d _ _ => by
      obtain ⟨x, hx⟩ := Option.isSome_iff_exists.mp (h.schedulePresent hp (s.t.val - d) (by omega))
      exact ⟨x, (readW_eq_ok s _ x).mpr hx⟩
    obtain ⟨w16, h16⟩ := hread 16 (by omega) (by omega)
    obtain ⟨w15, h15⟩ := hread 15 (by omega) (by omega)
    obtain ⟨w7, h7⟩ := hread 7 (by omega) (by omega)
    obtain ⟨w2, h2⟩ := hread 2 (by omega) (by omega)
    exact ⟨scheduleWord w16 w15 w7 w2, by simp only [h16, h15, h7, h2, Except.ok_bind_eq]⟩

/-- In BUSY the sequencer's step completes, in each of the seven stages. -/
theorem MachineInv.sequencerStep_completes (hb : s.state = .busy) : ∃ t, Machine.sequencerStep s = .next t := by
  have hidle : s.state ≠ .idle := by simp [hb]
  rcases phase_cases (h.busyPhase.mp hb) h.phaseHeld with hp | hp | hp | hp | hp | hp | hp
  · obtain ⟨t, ht⟩ := h.encodeStep_ok
    exact ⟨t, by rw [sequencerStep_of_phase hb hp rfl, exec_uEnc_of_enabled hb hp, ht]; rfl⟩
  · exact ⟨_, by rw [sequencerStep_of_phase hb hp rfl, exec_uPad_of_enabled hb hp]⟩
  · obtain ⟨hn, _⟩ := h.paddedBlocks (by simp [hp])
    obtain ⟨x, hx⟩ := h.nextScheduleWord_ok hp
    exact ⟨_, by rw [sequencerStep_of_phase hb hp rfl, exec_uSched_of_enabled hb hp (by omega), hx]; rfl⟩
  · obtain ⟨x, hx⟩ := h.readHs_ok hidle
    exact ⟨_, by rw [sequencerStep_of_phase hb hp rfl, exec_uCopy_of_enabled hb hp, hx]; rfl⟩
  · obtain ⟨v, hv⟩ := h.readVars_ok (.inl hp)
    obtain ⟨x, hx⟩ := Option.isSome_iff_exists.mp (h.scheduleWhole (by simp [hp]) (by simp [hp]) s.t s.t.isLt)
    rw [← readW_eq_ok] at hx
    exact ⟨_, by rw [sequencerStep_of_phase hb hp rfl, exec_uRound_of_enabled hb hp, hv, Except.ok_bind_eq, hx]; rfl⟩
  · obtain ⟨x, hx⟩ := h.readHs_ok hidle
    obtain ⟨v, hv⟩ := h.readVars_ok (.inr hp)
    exact ⟨_, by rw [sequencerStep_of_phase hb hp rfl, exec_uFold_of_enabled hb hp, hx, Except.ok_bind_eq, hv]; rfl⟩
  · obtain ⟨x, hx⟩ := h.readHs_ok hidle
    exact ⟨_, by rw [sequencerStep_of_phase hb hp rfl, exec_uFmt_of_enabled hb hp, hx]; rfl⟩

/-! ### Progress of the host -/

/-- Every command completes: the two that read the datapath are accepted in DONE only. -/
theorem MachineInv.exec_command_completes {i : Instr} (hi : i.isCommand = true) : ∃ t, Machine.exec i s = .next t := by
  cases i with
  | start | run | rdregStatus | rdregCuCount | rdregErrpos | rdregByteLen =>
    simp only [Machine.exec, execStart, execRun, execRdregStatus, execRdregCuCount, execRdregErrpos, execRdregByteLen]
    exact hostCommand_completes fun _ => ⟨_, rfl⟩
  | push u =>
    rw [Machine.exec, execPush]
    refine hostCommand_completes fun _ => ?_
    split <;> exact ⟨_, rfl⟩
  | rdword k =>
    rw [Machine.exec, execRdword]
    refine hostCommand_completes fun ha => ?_
    have hd : s.state = .done := by simpa [accepted] using ha
    obtain ⟨x, hx⟩ := h.readHs_ok (by simp [hd])
    exact ⟨_, by rw [hx, Except.ok_bind_eq]⟩
  | rdchar j =>
    rw [Machine.exec, execRdchar]
    refine hostCommand_completes fun ha => ?_
    have hd : s.state = .done := by simpa [accepted] using ha
    obtain ⟨b, hbyte⟩ := h.readHex_ok hd j.isLt
    exact ⟨_, by rw [hbyte, Except.ok_bind_eq]⟩
  | uEnc | uPad | uSched | uCopy | uRound | uFold | uFmt => cases hi

theorem MachineInv.hostStep_completes (w : Word) : ∃ t, Machine.hostStep w s = .next t := by
  cases hd : decode (.command w) with
  | ok i =>
    rw [hostStep_of_decode hd]
    exact h.exec_command_completes (decodeCommand_isCommand hd)
  | error e => exact ⟨_, hostStep_of_illegal hd s⟩

theorem MachineInv.pollStep_completes : ∃ t, Machine.pollStep s = .next t := by
  obtain ⟨t, ht⟩ := h.hostStep_completes pollWord
  exact ⟨_, by rw [Machine.pollStep, ht]⟩

/-- The sequencer's turn completes, or STATE is not BUSY and there is no step. -/
theorem MachineInv.sequencerStep_completes_or_not_busy :
    (∃ t, Machine.sequencerStep s = .next t) ∨ (Machine.sequencerStep s = .fault .notEnabled ∧ s.state ≠ .busy) := by
  by_cases hb : s.state = .busy
  · exact .inl (h.sequencerStep_completes hb)
  · exact .inr ⟨sequencerStep_of_not_busy hb, hb⟩

end

/-- Settles O48: what each agent reads is there by the invariant, so that its move completes; the sequencer outside
BUSY is the one exception (`MachineInv.sequencerStep_completes_or_not_busy`). -/
theorem invariantStatesNeverFault : Obligations.InvariantStatesNeverFault := by
  intro s h
  rcases step_cases s with ⟨hm, hs⟩ | ⟨rest, hm, hs⟩ | ⟨w, rest, _, hs⟩ | ⟨rest, _, hs⟩ | ⟨rest, _, hs⟩
  all_goals rw [hs]
  · exact h.sequencerStep_completes_or_not_busy.imp_right fun ⟨hf, hb⟩ => ⟨hf, hb, .inl hm⟩
  · exact (h.withMoves rest).sequencerStep_completes_or_not_busy.imp_right fun ⟨hf, hb⟩ => ⟨hf, hb, .inr ⟨rest, hm⟩⟩
  · exact .inl ((h.withMoves rest).hostStep_completes w)
  · exact .inl (h.withMoves rest).pollStep_completes
  · exact .inl ⟨_, rfl⟩

/-! ### The reset state -/

/-- Settles O1. -/
theorem resetLeavesTheStatedValues : Obligations.ResetLeavesTheStatedValues :=
  ⟨rfl, rfl, rfl, rfl, rfl, rfl, rfl, rfl, rfl, rfl, rfl, rfl, rfl, rfl, fun _ => ⟨rfl, rfl, rfl, rfl⟩⟩

/-- Settles O46: nothing is present at reset, and nothing has to be. -/
theorem resetMeetsTheInvariant : Obligations.ResetMeetsTheInvariant :=
  { StageInv.atRest (s := State.reset) (by simp) rfl with
    cfgLegal := by decide
    cuWf := rfl, msgWf := rfl, wWf := rfl, hexWf := rfl
    cuWithin := fun _ _ => rfl, msgWithin := fun _ _ => rfl, wWithin := fun _ _ => rfl, hexWithin := fun _ _ => rfl
    errState := by simp
    countLe := Nat.zero_le _
    cuPresent := Space.presentBelow_zero
    errPosMalformed := by simp, errPosOverflow := by simp, errPosNone := fun _ => rfl
    hsPresent := by simp
    hexRenders := by simp
    msgPresent := Space.presentBelow_zero
    ciLe := Nat.le_refl _, byteLenLe := Nat.le_refl _, blkLe := Nat.le_refl _, nblkLe := Nat.zero_le _ }

end Sys2Proof.Machine
end

section
/-! PROOFS. What an instruction may write: the datapath, STATE and PHASE, read off from what each instruction answers. -/

namespace Sys2Proof.Machine

/-- Settles O50, instruction by instruction: the fields that its update sets are the ones the rules name. -/
theorem onlyTheNamedWritersWrite : Obligations.OnlyTheNamedWritersWrite := by
  intro i s t h
  cases i with
  | start => rcases exec_start_next h with ⟨_, rfl⟩ | ⟨_, rfl⟩ <;> simp
  | push u => rcases exec_push_next h with ⟨_, rfl⟩ | ⟨_, _, rfl⟩ | ⟨_, _, rfl⟩ <;> simp
  | run => rcases exec_run_next h with ⟨_, rfl⟩ | ⟨_, rfl⟩ <;> simp
  | rdword | rdchar | rdregStatus | rdregCuCount | rdregErrpos | rdregByteLen =>
    obtain ⟨c, d, rfl⟩ := exec_read_next rfl (by simp) h
    simp
  | uEnc =>
    obtain ⟨_, _, henc⟩ := exec_uEnc_next h
    rcases encodeStep_cases henc with ⟨_, rfl⟩ | ⟨bs, n, rfl, _⟩ | ⟨_, rfl⟩ <;> simp
  | uPad =>
    obtain ⟨_, _, rfl⟩ := exec_uPad_next h
    simp
  | uSched =>
    obtain ⟨_, _, _, x, _, rfl⟩ := exec_uSched_next h
    simp
  | uCopy =>
    obtain ⟨_, _, x, _, rfl⟩ := exec_uCopy_next h
    simp
  | uRound =>
    obtain ⟨_, _, v, x, _, _, rfl⟩ := exec_uRound_next h
    simp
  | uFold =>
    obtain ⟨_, _, x, v, _, _, rfl⟩ := exec_uFold_next h
    simp
  | uFmt =>
    obtain ⟨_, _, x, _, rfl⟩ := exec_uFmt_next h
    simp

/-- Settles O51: each clause is one instruction's accepted case; in every other case STATE is as before. -/
theorem stateFieldTransitions : Obligations.StateFieldTransitions := by
  intro i s t h hne
  cases i with
  | start =>
    rcases exec_start_next h with ⟨_, rfl⟩ | ⟨hs, rfl⟩
    · simp at hne
    · simp [hs]
  | push u =>
    rcases exec_push_next h with ⟨_, rfl⟩ | ⟨hs, _, rfl⟩ | ⟨_, _, rfl⟩
    · simp at hne
    · simp [hs]
    · simp at hne
  | run =>
    rcases exec_run_next h with ⟨_, rfl⟩ | ⟨hs, rfl⟩
    · simp at hne
    · simp [hs]
  | rdword | rdchar | rdregStatus | rdregCuCount | rdregErrpos | rdregByteLen =>
    obtain ⟨c, d, rfl⟩ := exec_read_next rfl (by simp) h
    simp at hne
  | uEnc =>
    obtain ⟨hs, _, henc⟩ := exec_uEnc_next h
    rcases encodeStep_cases henc with ⟨_, rfl⟩ | ⟨bs, n, rfl, _⟩ | ⟨_, rfl⟩
    · simp at hne
    · simp at hne
    · simp [hs]
  | uPad =>
    obtain ⟨_, _, rfl⟩ := exec_uPad_next h
    simp at hne
  | uSched =>
    obtain ⟨_, _, _, x, _, rfl⟩ := exec_uSched_next h
    simp at hne
  | uCopy =>
    obtain ⟨_, _, x, _, rfl⟩ := exec_uCopy_next h
    simp at hne
  | uRound =>
    obtain ⟨_, _, v, x, _, _, rfl⟩ := exec_uRound_next h
    simp at hne
  | uFold =>
    obtain ⟨_, _, x, v, _, _, rfl⟩ := exec_uFold_next h
    simp at hne
  | uFmt =>
    obtain ⟨hs, _, x, _, rfl⟩ := exec_uFmt_next h
    simp [hs]

/-- Settles O52: each micro-operation runs in its own PHASE and leaves it unchanged, at the next stage, or at 0. -/
theorem phaseOrder : Obligations.PhaseOrder := by
  intro i s t hi h
  cases i with
  | start | push | run | rdword | rdchar | rdregStatus | rdregCuCount | rdregErrpos | rdregByteLen => cases hi
  | uEnc =>
    obtain ⟨_, hp, henc⟩ := exec_uEnc_next h
    rcases encodeStep_cases henc with ⟨_, rfl⟩ | ⟨bs, n, rfl, _⟩ | ⟨_, rfl⟩ <;> simp [hp]
  | uPad =>
    obtain ⟨_, hp, rfl⟩ := exec_uPad_next h
    simp [hp]
  | uSched =>
    obtain ⟨_, hp, _, x, _, rfl⟩ := exec_uSched_next h
    by_cases ht : s.t = 63 <;> simp [hp, ht]
  | uCopy =>
    obtain ⟨_, hp, x, _, rfl⟩ := exec_uCopy_next h
    simp [hp]
  | uRound =>
    obtain ⟨_, hp, v, x, _, _, rfl⟩ := exec_uRound_next h
    by_cases ht : s.t = 63 <;> simp [hp, ht]
  | uFold =>
    obtain ⟨_, hp, x, v, _, _, rfl⟩ := exec_uFold_next h
    by_cases hlast : s.blk + 1 = s.nblk <;> simp [hp, hlast]
  | uFmt =>
    obtain ⟨_, hp, x, _, rfl⟩ := exec_uFmt_next h
    simp [hp]

end Sys2Proof.Machine
end

section
/-! PROOFS. The host's side of the machine: the STATUS word, and that what a command answers depends on the view. -/

namespace Sys2Proof.Machine

/-! ### The STATUS word -/

theorem statusWord_state_bits (st : StateCode) (e : ErrCode) : (statusWord st e).extractLsb' 0 3 = st.bits := by
  cases st <;> cases e <;> rfl

theorem statusWord_err_bits (st : StateCode) (e : ErrCode) : (statusWord st e).extractLsb' 4 4 = e.bits := by
  cases st <;> cases e <;> rfl

theorem statusWord_zero_bits (st : StateCode) (e : ErrCode) :
    (statusWord st e).getLsbD 3 = false ∧ (statusWord st e).extractLsb' 8 24 = 0#24 := by
  cases st <;> cases e <;> exact ⟨rfl, rfl⟩

/-- Settles O24: the four fields of `statusWord`, and RDREG STATUS, which every STATE accepts. -/
theorem statusWordLayout : Obligations.StatusWordLayout := by
  refine ⟨rfl, fun s => ?_⟩
  obtain ⟨hbit, hhigh⟩ := statusWord_zero_bits s.state s.err
  refine ⟨?_, hbit, ?_, hhigh, rfl⟩
  · rw [State.status, statusWord_state_bits]
    cases s.state <;> rfl
  · rw [State.status, statusWord_err_bits]
    cases s.err <;> rfl

/-! ### Two states with one view -/

/-- What rule R58 makes two states agree on: the view is the same exactly when the always visible fields are, ERRPOS is
in ERROR, and the results are in DONE. -/
theorem hostView_eq_iff (s1 s2 : State) : s1.hostView = s2.hostView ↔
    s1.state = s2.state ∧ s1.err = s2.err ∧ s1.cuCount = s2.cuCount ∧ (s1.state = .error → s1.errPos = s2.errPos) ∧
      (s1.state = .done → s1.byteLen = s2.byteLen ∧ s1.hs = s2.hs ∧ ∀ j < 64, s1.hex.read j = s2.hex.read j) := by
  simp only [State.hostView, HostView.mk.injEq]
  constructor
  · rintro ⟨hst, herr, hcu, hpos, hlen, hhs, hhex⟩
    refine ⟨hst, herr, hcu, fun he => ?_, fun hd => ?_⟩
    · simpa [← hst, he] using hpos
    · simp only [← hst, hd, if_true] at hlen hhs hhex
      exact ⟨by simpa using hlen, hhs, fun j hj => List.map_eq_map_iff.mp hhex j (List.mem_range.mpr hj)⟩
  · rintro ⟨hst, herr, hcu, hpos, hres⟩
    refine ⟨hst, herr, hcu, ?_, ?_, ?_, ?_⟩
    all_goals rw [← hst]; split
    · rw [hpos ‹_›]
    · rfl
    · rw [(hres ‹_›).1]
    · rfl
    · exact (hres ‹_›).2.1
    · rfl
    · exact List.map_congr_left fun j hj => (hres ‹_›).2.2 j (List.mem_range.mp hj)
    · rfl

/-- Two states the host cannot tell apart. -/
structure SameToHost (s1 s2 : State) : Prop where
  cfg : s1.cfg = s2.cfg
  hostView : s1.hostView = s2.hostView
  responses : s1.responses = s2.responses

/-- Two outcomes the host cannot tell apart: the same fault, or next states it cannot tell apart. -/
inductive SameOutcome : Host.Outcome State Fault Refusal → Host.Outcome State Fault Refusal → Prop where
  | next {t1 t2 : State} (h : SameToHost t1 t2) : SameOutcome (.next t1) (.next t2)
  | fault (f : Fault) : SameOutcome (.fault f) (.fault f)

section
variable {s1 s2 : State} (h : SameToHost s1 s2)
include h

theorem SameToHost.state : s1.state = s2.state := congrArg HostView.state h.hostView

theorem SameToHost.cuCount : s1.cuCount = s2.cuCount := congrArg HostView.cuCount h.hostView

theorem SameToHost.status : s1.status = s2.status := by
  have herr : s1.err = s2.err := congrArg HostView.err h.hostView
  rw [State.status, State.status, h.state, herr]

/-- The same answer given to both leaves them alike. -/
theorem SameToHost.respond (c : RespCode) (d : Word) : SameToHost (s1.respond c d) (s2.respond c d) where
  cfg := h.cfg
  hostView := h.hostView
  responses := by simp [h.responses]

theorem SameToHost.respondStatus (c : RespCode) : SameToHost (s1.respondStatus c) (s2.respondStatus c) := by
  rw [State.respondStatus, State.respondStatus, h.status]
  exact h.respond c _

/-! ### The updates of the host's commands -/

theorem SameToHost.beginCall : SameToHost s1.beginCall s2.beginCall :=
  ⟨h.cfg, (hostView_eq_iff _ _).mpr (by simp), h.responses⟩

theorem SameToHost.beginRun : SameToHost s1.beginRun s2.beginRun := by
  obtain ⟨_, herr, hcu, _⟩ := (hostView_eq_iff _ _).mp h.hostView
  exact ⟨h.cfg, (hostView_eq_iff _ _).mpr (by simp [herr, hcu]), h.responses⟩

theorem SameToHost.raiseOverflow :
    SameToHost (s1.raiseError .overflow s1.cuCount) (s2.raiseError .overflow s2.cuCount) :=
  ⟨h.cfg, (hostView_eq_iff _ _).mpr (by simp [h.cuCount]), h.responses⟩

theorem SameToHost.storeCodeUnit (u : CodeUnit) : SameToHost (s1.storeCodeUnit u) (s2.storeCodeUnit u) := by
  obtain ⟨hst, herr, hcu, hpos, hres⟩ := (hostView_eq_iff _ _).mp h.hostView
  exact ⟨h.cfg, (hostView_eq_iff _ _).mpr ⟨hst, herr, by simp [hcu], hpos, hres⟩, h.responses⟩

/-! ### The commands -/

/-- A register of the same value is answered alike. -/
theorem SameToHost.answerRegister {d1 d2 : Word} (hd : d1 = d2) :
    SameOutcome (finish (.ok (s1.respond .ok d1))) (finish (.ok (s2.respond .ok d2))) := by
  subst hd
  exact .next (h.respond .ok d1)

/-- A read of the same value, or the same fault, is answered alike. -/
theorem SameToHost.answerRead {α : Type} {r1 r2 : Except Fault α} (hr : r1 = r2) (f : α → Word) :
    SameOutcome (finish (r1 >>= fun x => .ok (s1.respond .ok (f x))))
      (finish (r2 >>= fun x => .ok (s2.respond .ok (f x)))) := by
  subst hr
  cases r1 with
  | ok x => exact h.answerRegister rfl
  | error e => exact .fault e

/-- Both states accept a command or both reject it. -/
theorem SameToHost.hostCommand {i : Instr} {body1 body2 : State → Except Fault State}
    (hb : accepted i s1.state = true → SameOutcome (finish (body1 s1)) (finish (body2 s2))) :
    SameOutcome (hostCommand i s1 body1) (hostCommand i s2 body2) := by
  cases ha : accepted i s1.state with
  | true =>
    rw [hostCommand_of_accepted _ ha, hostCommand_of_accepted _ (h.state ▸ ha)]
    exact hb ha
  | false =>
    rw [hostCommand_of_rejected _ ha, hostCommand_of_rejected _ (h.state ▸ ha)]
    exact .next (h.respondStatus .badState)

theorem SameToHost.exec_push (u : CodeUnit) : SameOutcome (execPush u s1) (execPush u s2) := by
  refine h.hostCommand fun _ => ?_
  rw [h.cuCount, h.cfg]
  split
  · exact .next (h.cuCount ▸ h.raiseOverflow.respondStatus .overflow)
  · exact .next ((h.storeCodeUnit u).respondStatus .ok)

/-- A command answers alike in both states: what it reads is part of the view in the states that accept it. -/
theorem SameToHost.exec {i : Instr} (hi : i.isCommand = true) : SameOutcome (exec i s1) (exec i s2) := by
  obtain ⟨_, _, _, hpos, hres⟩ := (hostView_eq_iff _ _).mp h.hostView
  cases i with
  | start =>
    simp only [Machine.exec, execStart]
    exact h.hostCommand fun _ => .next (h.beginCall.respondStatus .ok)
  | push u => exact h.exec_push u
  | run =>
    simp only [Machine.exec, execRun]
    exact h.hostCommand fun _ => .next (h.beginRun.respondStatus .ok)
  | rdword k =>
    simp only [Machine.exec, execRdword]
    refine h.hostCommand fun ha => h.answerRead ?_ _
    obtain ⟨_, hhs, _⟩ := hres (by simpa [accepted] using ha)
    rw [readHs, readHs, hhs]
  | rdchar j =>
    simp only [Machine.exec, execRdchar]
    refine h.hostCommand fun ha => h.answerRead ?_ _
    obtain ⟨_, _, hhex⟩ := hres (by simpa [accepted] using ha)
    rw [readHex, readHex, hhex j.toNat j.isLt]
  | rdregStatus =>
    simp only [Machine.exec, execRdregStatus]
    exact h.hostCommand fun _ => h.answerRegister h.status
  | rdregCuCount =>
    simp only [Machine.exec, execRdregCuCount]
    exact h.hostCommand fun _ => h.answerRegister h.cuCount
  | rdregErrpos =>
    simp only [Machine.exec, execRdregErrpos]
    exact h.hostCommand fun ha => h.answerRegister (hpos (by simpa [accepted] using ha))
  | rdregByteLen =>
    simp only [Machine.exec, execRdregByteLen]
    refine h.hostCommand fun ha => h.answerRegister ?_
    obtain ⟨hlen, _⟩ := hres (by simpa [accepted] using ha)
    exact hlen
  | uEnc | uPad | uSched | uCopy | uRound | uFold | uFmt => cases hi

theorem SameToHost.hostStep (w : Word) : SameOutcome (hostStep w s1) (hostStep w s2) := by
  cases hd : decode (.command w) with
  | ok i =>
    rw [hostStep_of_decode hd, hostStep_of_decode hd]
    exact h.exec (decodeCommand_isCommand hd)
  | error e =>
    rw [hostStep_of_illegal hd, hostStep_of_illegal hd]
    exact .next (h.respondStatus .illegal)

end

/-- Settles O49: a host step keeps the relation `SameToHost`, and faults alike (`SameToHost.hostStep`). -/
theorem hostObservesOnlyItsView : Obligations.HostObservesOnlyItsView := by
  intro s1 s2 w hcfg hview hresp
  have hout : SameOutcome (hostStep w s1) (hostStep w s2) := SameToHost.hostStep ⟨hcfg, hview, hresp⟩ w
  generalize hostStep w s1 = o1, hostStep w s2 = o2 at hout
  cases hout with
  | @next t1 t2 h =>
    refine ⟨fun t ht => ?_, fun _ ht => by cases ht⟩
    injection ht with ht
    exact ⟨t2, rfl, ht ▸ h.responses, ht ▸ h.hostView⟩
  | fault f => exact ⟨fun _ ht => (by cases ht), fun _ ht => ht⟩

end Sys2Proof.Machine
end

section
/-! PROOFS. The stops of the datapath reads (rule R61): the first operand that cannot be read stops the instruction. -/

namespace Sys2Proof.Machine

/-- A computation whose first read stops ends the instruction with that stop. -/
theorem finish_bind_of_error {α : Type} {r : Except Fault α} {f : Fault} (hr : r = .error f)
    (g : α → Except Fault State) : finish (r >>= g) = .fault f := by
  rw [hr]
  rfl

section
variable {s : State}

theorem readHs_of_absent (h : s.hs = none) : readHs s = .error (.absentRead .hs) := by
  rw [readHs, h, present_none]

theorem readVars_of_absent (h : s.vars = none) : readVars s = .error (.absentRead .vars) := by
  rw [readVars, h, present_none]

theorem readHex_of_absent {j : Nat} (h : s.hex.read j = none) : readHex s j = .error (.absentRead .hex) := by
  rw [readHex, h, present_none]

theorem readCu_of_beyond {i : Nat} (h : s.cuCount.toNat ≤ i) : readCu s i = .error .cuBeyondCount := by
  rw [readCu, if_neg (by omega)]

/-! ### The encoder -/

/-- Away from the end of the input U_ENC stops where its code unit cannot be read. -/
theorem encodeStep_of_unreadable {f : Fault} (hc : s.ci ≠ s.cuCount.toNat) (hf : readCu s s.ci = .error f) :
    encodeStep s = .error f := by
  rw [encodeStep, if_neg hc, hf, Except.error_bind_eq]

/-- A high surrogate is the encoder's case of two code units (rule R157). -/
theorem encodeStep_of_highSurrogate {u : CodeUnit} (hlt : s.ci < s.cuCount.toNat) (hu : s.cu.read s.ci = some u)
    (hlo : 0xD800 ≤ u.toNat) (hhi : u.toNat ≤ 0xDBFF) : encodeStep s = encodePair s u := by
  rw [encodeStep, if_neg (by omega), (readCu_eq_ok s s.ci u).mpr ⟨hlt, hu⟩, Except.ok_bind_eq, if_neg (by bv_omega),
    if_neg (by bv_omega), if_neg (by bv_omega), if_pos (by bv_omega)]

theorem encodePair_of_absent (u : CodeUnit) (hlt : s.ci + 1 < s.cuCount.toNat) (h : s.cu.read (s.ci + 1) = none) :
    encodePair s u = .error (.absentRead .cu) := by
  rw [encodePair, if_neg (by omega), readCu_of_absent hlt h, Except.error_bind_eq]

/-! ### The schedule -/

/-- A message word stops at the first of its four bytes that cannot be read (rule R216). -/
theorem nextScheduleWord_of_unreadable {k : Nat} {f : Fault} (ht : s.t.val ≤ 15) (hk : k < 4)
    (hp : ∀ i < k, 64 * s.blk + 4 * s.t.val + i < s.msgLen ∧ s.msg.read (64 * s.blk + 4 * s.t.val + i) ≠ none)
    (hf : readMsg s (64 * s.blk + 4 * s.t.val + k) = .error f) : nextScheduleWord s = .error f := by
  rw [nextScheduleWord, if_pos (by omega), memReadWord_eq_error hk hp hf]

/-- A read of W, and then more reads of W: one absent word among them stops the whole. -/
theorem readW_bind_of_absent {α : Type} {i : Nat} {f : Word → Except Fault α}
    (h : s.w.read i = none ∨ ∀ x, f x = .error (.absentRead .w)) : (readW s i >>= f) = .error (.absentRead .w) := by
  rcases h with h | h
  · rw [readW_of_absent h, Except.error_bind_eq]
  · cases hx : s.w.read i with
    | none => rw [readW_of_absent hx, Except.error_bind_eq]
    | some x => rw [(readW_eq_ok s i x).mpr hx, Except.ok_bind_eq, h]

/-- An expanded word stops where any of its four words is absent (rule R217). -/
theorem nextScheduleWord_of_absent {d : Nat} (ht : 16 ≤ s.t.val) (hd : d ∈ [16, 15, 7, 2])
    (h : s.w.read (s.t.val - d) = none) : nextScheduleWord s = .error (.absentRead .w) := by
  rw [nextScheduleWord, if_neg (by omega)]
  simp only [List.mem_cons, List.not_mem_nil, or_false] at hd
  rcases hd with rfl | rfl | rfl | rfl
  · exact readW_bind_of_absent (.inl h)
  · exact readW_bind_of_absent (.inr fun _ => readW_bind_of_absent (.inl h))
  · exact readW_bind_of_absent (.inr fun _ => readW_bind_of_absent (.inr fun _ => readW_bind_of_absent (.inl h)))
  · exact readW_bind_of_absent (.inr fun _ => readW_bind_of_absent (.inr fun _ =>
      readW_bind_of_absent (.inr fun _ => readW_bind_of_absent (.inl h))))

theorem exec_uSched_of_unreadable {f : Fault} (hb : s.state = .busy) (hp : s.phase = 3#4) (hn : s.nblk ≠ 0)
    (hf : nextScheduleWord s = .error f) : exec .uSched s = .fault f := by
  rw [exec_uSched_of_enabled hb hp hn, finish_bind_of_error hf]

end

/-- Settles O55: each read of each instruction, in the order in which the instruction reads. -/
theorem absentReadsFault : Obligations.AbsentReadsFault := by
  intro s
  refine ⟨?rdword, ?rdchar, ?encBeyond, ?encAbsent, ?encPair, ?noBlock, ?schedMessage, ?schedWords, ?copy, ?roundVars,
    ?roundWord, ?foldHs, ?foldVars, ?format⟩
  case rdword =>
    intro hd hhs k
    rw [exec_rdword_of_done hd, finish_bind_of_error (readHs_of_absent hhs)]
  case rdchar =>
    intro hd j hj
    rw [exec_rdchar_of_done hd, finish_bind_of_error (readHex_of_absent hj)]
  case encBeyond =>
    intro hb hp hc
    rw [exec_uEnc_of_enabled hb hp, encodeStep_of_unreadable (by omega) (readCu_of_beyond (by omega)), finish]
  case encAbsent =>
    intro hb hp hc hu
    rw [exec_uEnc_of_enabled hb hp, encodeStep_of_unreadable (by omega) (readCu_of_absent hc hu), finish]
  case encPair =>
    intro hb hp hc u hu hlo hhi hv
    rw [exec_uEnc_of_enabled hb hp, encodeStep_of_highSurrogate (by omega) hu hlo hhi, encodePair_of_absent u hc hv,
      finish]
  case noBlock => exact exec_uSched_of_no_block
  case schedMessage =>
    intro hb hp hn ht k hk hbefore
    exact ⟨fun hend => exec_uSched_of_unreadable hb hp hn
        (nextScheduleWord_of_unreadable ht hk hbefore (readMsg_of_beyond hend)),
      fun hlt habs => exec_uSched_of_unreadable hb hp hn
        (nextScheduleWord_of_unreadable ht hk hbefore (readMsg_of_absent hlt habs))⟩
  case schedWords =>
    rintro hb hp hn ht ⟨d, hd, habs⟩
    exact exec_uSched_of_unreadable hb hp hn (nextScheduleWord_of_absent ht hd habs)
  case copy =>
    intro hb hp hhs
    rw [exec_uCopy_of_enabled hb hp, finish_bind_of_error (readHs_of_absent hhs)]
  case roundVars =>
    intro hb hp hv
    rw [exec_uRound_of_enabled hb hp, finish_bind_of_error (readVars_of_absent hv)]
  case roundWord =>
    intro hb hp hv hw
    obtain ⟨v, hv⟩ := Option.ne_none_iff_exists'.mp hv
    rw [exec_uRound_of_enabled hb hp, (readVars_eq_ok s v).mpr hv, Except.ok_bind_eq,
      finish_bind_of_error (readW_of_absent hw)]
  case foldHs =>
    intro hb hp hhs
    rw [exec_uFold_of_enabled hb hp, finish_bind_of_error (readHs_of_absent hhs)]
  case foldVars =>
    intro hb hp hhs hv
    obtain ⟨x, hx⟩ := Option.ne_none_iff_exists'.mp hhs
    rw [exec_uFold_of_enabled hb hp, (readHs_eq_ok s x).mpr hx, Except.ok_bind_eq,
      finish_bind_of_error (readVars_of_absent hv)]
  case format =>
    intro hb hp hhs
    rw [exec_uFmt_of_enabled hb hp, finish_bind_of_error (readHs_of_absent hhs)]

end Sys2Proof.Machine
end

section
/-! PROOFS. Side effects and idempotence of the host's commands (rule R90): what an answered command does when it is
issued again. -/

namespace Sys2Proof.Machine

/-! ### Reads -/

/-- A read in the frame of a host command, whose value the response does not touch, answers the same again. -/
theorem hostCommand_read_again {α : Type} {i : Instr} {s t : State} {r : State → Except Fault α} {f : State → α → Word}
    (hr : ∀ c d, r (s.respond c d) = r s) (hf : ∀ c d, f (s.respond c d) = f s)
    (h : hostCommand i s (fun s => r s >>= fun x => .ok (s.respond .ok (f s x))) = .next t) :
    ∃ c d, t = s.respond c d ∧
      hostCommand i t (fun s => r s >>= fun x => .ok (s.respond .ok (f s x))) = .next (t.respond c d) := by
  rcases hostCommand_next h with ⟨ha, rfl⟩ | ⟨ha, hbody⟩
  · exact ⟨.badState, s.status, rfl, hostCommand_of_rejected _ ha⟩
  · obtain ⟨x, hx, ht⟩ := (bind_eq_ok _ _ _).mp hbody
    obtain rfl : s.respond .ok (f s x) = t := by simpa using ht
    refine ⟨.ok, f s x, rfl, ?_⟩
    have ha' : accepted i (s.respond .ok (f s x)).state = true := ha
    rw [hostCommand_of_accepted _ ha', hr, hx, hf, Except.ok_bind_eq, finish]

/-- The same for a register, whose read cannot stop. -/
theorem hostCommand_register_again {i : Instr} {s t : State} {f : State → Word} (hf : ∀ c d, f (s.respond c d) = f s)
    (h : hostCommand i s (fun s => .ok (s.respond .ok (f s))) = .next t) :
    ∃ c d, t = s.respond c d ∧ hostCommand i t (fun s => .ok (s.respond .ok (f s))) = .next (t.respond c d) :=
  hostCommand_read_again (r := fun _ => .ok ()) (f := fun s _ => f s) (fun _ _ => rfl)
    (fun c d => funext fun _ => hf c d) h

/-- A read that answers a state answers the same again, and neither answer changes anything but the responses. -/
theorem exec_read_again {i : Instr} {s t : State} (hi : i.isCommand = true)
    (hr : i ≠ .start ∧ i ≠ .run ∧ ∀ u, i ≠ .push u) (h : exec i s = .next t) :
    ∃ c d, t = s.respond c d ∧ exec i t = .next (t.respond c d) := by
  cases i with
  | start => exact absurd rfl hr.1
  | run => exact absurd rfl hr.2.1
  | push u => exact absurd rfl (hr.2.2 u)
  | rdword k =>
    exact hostCommand_read_again (r := readHs) (f := fun _ x => x.word k) (fun _ _ => rfl) (fun _ _ => rfl) h
  | rdchar j =>
    exact hostCommand_read_again (r := (readHex · j.toNat)) (f := fun _ b => b.setWidth 32) (fun _ _ => rfl)
      (fun _ _ => rfl) h
  | rdregStatus => exact hostCommand_register_again (i := .rdregStatus) (f := State.status) (fun _ _ => rfl) h
  | rdregCuCount => exact hostCommand_register_again (i := .rdregCuCount) (f := State.cuCount) (fun _ _ => rfl) h
  | rdregErrpos => exact hostCommand_register_again (i := .rdregErrpos) (f := State.errPos) (fun _ _ => rfl) h
  | rdregByteLen => exact hostCommand_register_again (i := .rdregByteLen) (f := State.byteLen) (fun _ _ => rfl) h
  | uEnc | uPad | uSched | uCopy | uRound | uFold | uFmt => cases hi

/-! ### START, PUSH and RUN -/

theorem exec_start_of_not_busy {s : State} (h : s.state ≠ .busy) :
    exec .start s = .next (s.beginCall.respondStatus .ok) := by
  rw [exec, execStart, hostCommand_of_accepted _ (by simpa [accepted] using h), finish]

theorem State.beginCall_status (s : State) : s.beginCall.status = 0x00000001#32 := by
  rw [State.status, State.beginCall_state, State.beginCall_err]
  decide

/-- START's effect on the state that START has answered is none. -/
theorem State.beginCall_respondStatus_beginCall (s : State) (c : RespCode) :
    (s.beginCall.respondStatus c).beginCall = s.beginCall.respondStatus c := rfl

theorem State.storeCodeUnit_cuCount_toNat {s : State} (u : CodeUnit) (h : s.cuCount.toNat + 1 < 2 ^ 32) :
    (s.storeCodeUnit u).cuCount.toNat = s.cuCount.toNat + 1 := by
  rw [State.storeCodeUnit_cuCount, BitVec.toNat_add_of_lt h]
  rfl

theorem exec_run_of_busy {s : State} (h : s.state = .busy) : exec .run s = .next (s.respondStatus .badState) := by
  rw [exec, execRun, hostCommand_of_rejected _ (by simp [accepted, h])]

/-- Settles O25: what a read answers and what START sets do not depend on the responses, so that issuing either again
repeats it; an accepted PUSH counts one code unit more, without wrapping below MAX_CU. -/
theorem readsAreIdempotentAndPushIsNot : Obligations.ReadsAreIdempotentAndPushIsNot := by
  refine ⟨?read, ?start, ?push, fun s hb => exec_run_of_busy hb⟩
  case read =>
    intro i hi s t h
    obtain ⟨hcmd, hkind⟩ : i.isCommand = true ∧ i ≠ .start ∧ i ≠ .run ∧ ∀ u, i ≠ .push u := by
      simp only [List.mem_cons, List.not_mem_nil, or_false] at hi
      rcases hi with ⟨k, rfl⟩ | ⟨j, rfl⟩ | rfl | rfl | rfl | rfl <;> simp [Instr.isCommand]
    obtain ⟨c, d, rfl, hagain⟩ := exec_read_again hcmd hkind h
    exact ⟨rfl, _, hagain, rfl, by rw [lastResponse_respond, lastResponse_respond]⟩
  case start =>
    intro s t hs h
    rw [exec_start_of_not_busy hs] at h
    injection h with h
    subst h
    rw [exec_start_of_not_busy (by simp), State.beginCall_respondStatus_beginCall]
    have hst : (s.beginCall.respondStatus .ok).status = 0x00000001#32 := s.beginCall_status
    rw [State.respondStatus, hst, State.respond]
  case push =>
    intro s t v hl hlt hcfg h
    obtain ⟨_, hmax⟩ := hcfg
    rcases exec_push_next h with ⟨hs, _⟩ | ⟨_, hfull, _⟩ | ⟨_, _, rfl⟩
    · exact absurd hl hs
    · omega
    · rw [State.respondStatus_cuCount, State.storeCodeUnit_cuCount_toNat v (by omega)]

end Sys2Proof.Machine
end

section
/-! PROOFS. The encoding of rule R110 to rule R121: the decoder answers an instruction exactly on the code that the
encoder gives it, and refuses exactly the words that the three conditions of rule R116 name, however they are checked. -/

namespace Sys2Proof

/-! ### The fields of a command word (rule R110) -/

@[simp] theorem opcField_commandWord (o : BitVec 4) (a : BitVec 16) : opcField (commandWord o a) = o := by
  rw [opcField, commandWord, BitVec.extractLsb'_append_eq_of_le (by decide)]
  exact BitVec.extractLsb'_append_eq_left

@[simp] theorem rsvField_commandWord (o : BitVec 4) (a : BitVec 16) : rsvField (commandWord o a) = 0#12 := by
  rw [rsvField, commandWord, BitVec.extractLsb'_append_eq_of_le (by decide)]
  exact BitVec.extractLsb'_append_eq_right

/-- The low half of a command word is its ARG, and so is every slice of it. -/
theorem extractLsb'_commandWord {k n : Nat} (h : k + n ≤ 16) (o : BitVec 4) (a : BitVec 16) :
    (commandWord o a).extractLsb' k n = a.extractLsb' k n := BitVec.extractLsb'_append_eq_of_add_le h

@[simp] theorem argField_commandWord (o : BitVec 4) (a : BitVec 16) : argField (commandWord o a) = a :=
  BitVec.extractLsb'_append_eq_right

/-- A word is made of its three fields. -/
theorem append_fields (w : Word) : opcField w ++ rsvField w ++ argField w = w := by
  rw [opcField, rsvField, BitVec.extractLsb'_append_extractLsb'_eq_extractLsb' (by rfl)]
  exact BitVec.extractLsb'_append_extractLsb'

theorem commandWord_fields {w : Word} (h : rsvField w = 0#12) : commandWord (opcField w) (argField w) = w := by
  rw [commandWord, ← h, append_fields]

/-- ARG is its sub-field of `k` bits where the bits above the sub-field are zero (rule R111). -/
theorem argField_eq_subField {w : Word} {k n : Nat} (hkn : k + n = 16) (h : w.extractLsb' k n = 0#n) :
    argField w = (w.extractLsb' 0 k).setWidth 16 := by
  have habove : w.toNat / 2 ^ k % 2 ^ n = 0 := by
    simpa [Nat.shiftRight_eq_div_pow] using congrArg BitVec.toNat h
  apply BitVec.eq_of_toNat_eq
  rw [BitVec.toNat_setWidth_of_le (by omega), argField, BitVec.extractLsb'_toNat, BitVec.extractLsb'_toNat,
    Nat.shiftRight_zero, ← hkn, Nat.pow_add, Nat.mod_mul, habove, Nat.mul_zero, Nat.add_zero]

theorem commandWord_toNat (o : BitVec 4) (a : BitVec 16) :
    (commandWord o a).toNat = 2 ^ 28 * o.toNat + a.toNat := by
  rw [commandWord, BitVec.toNat_append, BitVec.toNat_append, BitVec.toNat_zero, Nat.or_zero, ← Nat.shiftLeft_add,
    ← Nat.shiftLeft_add_eq_or_of_lt (by omega), Nat.shiftLeft_eq]
  omega

/-! ### The encoder and the decoder -/

theorem encode_rdregOf (sel : BitVec 2) :
    encode (rdregOf sel) = .command (commandWord 0x6#4 (sel.setWidth 16)) := by
  revert sel
  decide

/-- A sub-field placed in ARG reads back as itself, with zeros above it. -/
theorem extractLsb'_setWidth_above {k n : Nat} (h : n + k ≤ 16) (x : BitVec k) :
    (x.setWidth 16).extractLsb' k n = 0#n := by
  rw [BitVec.extractLsb'_setWidth_of_le (by omega)]
  ext i hi
  simp

theorem extractLsb'_setWidth_low {k : Nat} (h : k ≤ 16) (x : BitVec k) :
    (x.setWidth 16).extractLsb' 0 k = x := by
  rw [BitVec.extractLsb'_setWidth_of_le (by omega), BitVec.extractLsb'_eq_self]

theorem decodeCommand_rdreg (sel : BitVec 2) :
    decodeCommand (commandWord 0x6#4 (sel.setWidth 16)) = .ok (rdregOf sel) := by
  simp [decodeCommand, extractLsb'_commandWord, extractLsb'_setWidth_above, extractLsb'_setWidth_low]

theorem decode_encode (i : Instr) : decode (encode i) = .ok i := by
  cases i with
  | start | push | run => simp [encode, decode, decodeCommand]
  | rdword | rdchar =>
    simp [encode, decode, decodeCommand, extractLsb'_commandWord, extractLsb'_setWidth_above, extractLsb'_setWidth_low]
  | rdregStatus => exact decodeCommand_rdreg 0#2
  | rdregCuCount => exact decodeCommand_rdreg 1#2
  | rdregErrpos => exact decodeCommand_rdreg 2#2
  | rdregByteLen => exact decodeCommand_rdreg 3#2
  | uEnc | uPad | uSched | uCopy | uRound | uFold | uFmt => rfl

/-- An instruction is encoded by the word with RSV zero and the opcode and ARG of its encoding. -/
theorem encode_eq_of_fields {w : Word} {i : Instr} {o : BitVec 4} {a : BitVec 16}
    (he : encode i = .command (commandWord o a)) (hr : rsvField w = 0#12) (ho : opcField w = o) (ha : argField w = a) :
    encode i = .command w := by
  rw [he, ← ho, ← ha, commandWord_fields hr]

theorem encode_of_decodeCommand {w : Word} {i : Instr} (h : decodeCommand w = .ok i) : encode i = .command w := by
  unfold decodeCommand at h
  split_ifs at h with hr ho ha ho ho ha ho ha ho ha ho ha
  all_goals
    injection h with h
    subst h
    rw [not_not] at hr
  · exact encode_eq_of_fields rfl hr ho ha
  · exact encode_eq_of_fields rfl hr ho rfl
  · exact encode_eq_of_fields rfl hr ho ha
  · exact encode_eq_of_fields rfl hr ho (argField_eq_subField rfl ha)
  · exact encode_eq_of_fields rfl hr ho (argField_eq_subField rfl ha)
  · exact encode_eq_of_fields (encode_rdregOf _) hr ho (argField_eq_subField rfl ha)

theorem encode_of_decodePhase {p : BitVec 4} {i : Instr} (h : decodePhase p = .ok i) : encode i = .phase p := by
  unfold decodePhase at h
  split_ifs at h
  all_goals
    injection h with h
    subst h
    subst_vars
    rfl

/-- The decoder answers an instruction exactly on the code the encoder gives it. -/
theorem decode_eq_ok_iff (c : Code) (i : Instr) : decode c = .ok i ↔ encode i = c := by
  refine ⟨fun h => ?_, fun h => h ▸ decode_encode i⟩
  cases c with
  | command w => exact encode_of_decodeCommand h
  | phase p => exact encode_of_decodePhase h

/-- The word of an instruction as a number: the operand counts as it stands, unsigned (rule R112). -/
theorem decode_eq_ok_iff_toNat {i : Instr} {o : BitVec 4} {a : BitVec 16} (he : encode i = .command (commandWord o a))
    (w : Word) : decode (.command w) = .ok i ↔ w.toNat = 2 ^ 28 * o.toNat + a.toNat := by
  rw [decode_eq_ok_iff, he, Code.command.injEq, ← BitVec.toNat_inj, commandWord_toNat, eq_comm]

/-! ### The conditions of rule R116 -/

/-- A must-be-zero bit of ARG is set (rule R111; rule R116, third condition). -/
def MbzSet (w : Word) : Prop :=
  ((opcField w = 1#4 ∨ opcField w = 3#4) ∧ argField w ≠ 0#16) ∨
  (opcField w = 4#4 ∧ w.extractLsb' 3 13 ≠ 0#13) ∨
  (opcField w = 5#4 ∧ w.extractLsb' 6 10 ≠ 0#10) ∨
  (opcField w = 6#4 ∧ w.extractLsb' 2 14 ≠ 0#14)

/-- The three conditions under which a word is ILLEGAL (rule R116), on the fields of the word. -/
def IllegalWord (w : Word) : Prop :=
  (opcField w = 0#4 ∨ 7#4 ≤ opcField w) ∨ rsvField w ≠ 0#12 ∨ MbzSet w

theorem opc_cases (o : BitVec 4) :
    (o = 0#4 ∨ 7#4 ≤ o) ∨ o = 1#4 ∨ o = 2#4 ∨ o = 3#4 ∨ o = 4#4 ∨ o = 5#4 ∨ o = 6#4 := by
  revert o
  decide

theorem decodeCommand_of_unassigned {w : Word} (hr : rsvField w = 0#12) (h : opcField w = 0#4 ∨ 7#4 ≤ opcField w) :
    decodeCommand w = .error .opcodeUnassigned := by
  have hne : ∀ o ∈ [1#4, 2#4, 3#4, 4#4, 5#4, 6#4], opcField w ≠ o := by
    generalize opcField w = o at h
    revert o
    decide
  simp only [List.forall_mem_cons] at hne
  simp [decodeCommand, hr, hne]

/-- A check of the must-be-zero bits refuses the word exactly when it fails. -/
theorem check_eq_error_iff {p : Prop} [Decidable p] {i : Instr} {d : DecodeError} :
    (∃ e, (if p then Except.ok i else Except.error d) = .error e) ↔ ¬p := by
  split <;> simp [*]

theorem decode_eq_error_iff (w : Word) : (∃ e, decode (.command w) = .error e) ↔ IllegalWord w := by
  rw [decode]
  by_cases hr : rsvField w = 0#12
  · rcases opc_cases (opcField w) with ho | ho | ho | ho | ho | ho | ho
    · exact iff_of_true ⟨_, decodeCommand_of_unassigned hr ho⟩ (.inl ho)
    all_goals simp [decodeCommand, IllegalWord, MbzSet, hr, ho, check_eq_error_iff]
  · exact iff_of_true ⟨.reservedNonzero, by rw [decodeCommand, if_pos hr]⟩ (.inr (.inl hr))

/-! ### The mask checks of rule R115 and rule R116 -/

/-- A mask of the bits from `k` up to `k + n` tests the slice of these bits for zero. -/
theorem and_mask_eq_zero_iff {m : Word} (k n : Nat)
    (hm : ∀ i < 32, m.getLsbD i = (decide (k ≤ i) && decide (i < k + n))) (w : Word) :
    w &&& m = 0#32 ↔ w.extractLsb' k n = 0#n := by
  constructor
  · intro h
    ext i hi
    by_cases hlt : k + i < 32
    · have hbit := congrArg (·.getLsbD (k + i)) h
      simpa [hm _ hlt, hi] using hbit
    · simp [BitVec.getLsbD_of_ge w (k + i) (by omega)]
  · intro h
    ext i hi
    rw [BitVec.getElem_and, ← BitVec.getLsbD_eq_getElem (x := m), hm i hi]
    by_cases hin : k ≤ i ∧ i < k + n
    · have hbit : w.getLsbD i = false := by
        simpa [show i - k < n by omega, show k + (i - k) = i by omega] using congrArg (·.getLsbD (i - k)) h
      simp [← BitVec.getLsbD_eq_getElem, hbit]
    · simp
      omega

theorem opcAssigned_iff (w : Word) : opcAssigned w = true ↔ ¬(opcField w = 0#4 ∨ 7#4 ≤ opcField w) := by
  have h : (opcField w).toNat = w.toNat / 2 ^ 28 := by
    rw [opcField, BitVec.extractLsb'_toNat, Nat.shiftRight_eq_div_pow]
    omega
  simp only [opcAssigned, Bool.and_eq_true, decide_eq_true_iff, BitVec.le_def, BitVec.toNat_eq, BitVec.toNat_ofNat, h]
  omega

theorem rsvZero_iff (w : Word) : rsvZero w = true ↔ rsvField w = 0#12 :=
  beq_iff_eq.trans (and_mask_eq_zero_iff 16 12 (by decide) w)

theorem and_opcMask (w : Word) : w &&& 0xF0000000#32 = opcField w ++ 0#28 := by
  have hw : opcField w ++ w.extractLsb' 0 28 = w := BitVec.extractLsb'_append_extractLsb' (w := 4) (len := 28)
  calc w &&& 0xF0000000#32
      = (opcField w ++ w.extractLsb' 0 28) &&& (BitVec.allOnes 4 ++ 0#28) := by rw [hw]; rfl
    _ = opcField w ++ 0#28 := by rw [BitVec.and_append, BitVec.and_allOnes, BitVec.and_zero]

/-- The mask of the must-be-zero bits, by opcode (rule R111). -/
theorem mbzMask_eq (w : Word) : mbzMask w =
    if opcField w = 1#4 ∨ opcField w = 3#4 then 0x0000FFFF#32
    else if opcField w = 4#4 then 0x0000FFF8#32
    else if opcField w = 5#4 then 0x0000FFC0#32
    else if opcField w = 6#4 then 0x0000FFFC#32
    else 0#32 := by
  rw [mbzMask, and_opcMask]
  generalize opcField w = o
  revert o
  decide

theorem mbzZero_iff (w : Word) : mbzZero w = true ↔ ¬MbzSet w := by
  have harg := and_mask_eq_zero_iff (m := 0x0000FFFF#32) 0 16 (by decide) w
  have hword := and_mask_eq_zero_iff (m := 0x0000FFF8#32) 3 13 (by decide) w
  have hchar := and_mask_eq_zero_iff (m := 0x0000FFC0#32) 6 10 (by decide) w
  have hreg := and_mask_eq_zero_iff (m := 0x0000FFFC#32) 2 14 (by decide) w
  rw [mbzZero, beq_iff_eq, mbzMask_eq, MbzSet]
  split_ifs with h13 h4 h5 h6
  · rcases h13 with h | h <;> simp [harg, argField, h]
  · simp [hword, h4]
  · simp [hchar, h5]
  · simp [hreg, h6]
  · simp [h13, h4, h5, h6]

theorem wellFormed_command_iff (w : Word) : (Code.command w).wellFormed = true ↔ ¬IllegalWord w := by
  rw [Code.wellFormed, Bool.and_eq_true, Bool.and_eq_true, opcAssigned_iff, rsvZero_iff, mbzZero_iff, IllegalWord]
  tauto

theorem phaseAssigned_iff (p : BitVec 4) : phaseAssigned p = true ↔ ∃ i, decode (.phase p) = .ok i := by
  have h : ∀ p, phaseAssigned p = (decode (.phase p)).isOk := by decide
  rw [h]
  cases decode (.phase p) <;> simp [Except.isOk, Except.toBool]

/-- What the decoder does not refuse it reads as an instruction. -/
theorem decode_eq_ok_iff_not_error (c : Code) : (∃ i, decode c = .ok i) ↔ ¬∃ e, decode c = .error e := by
  cases decode c <;> simp

end Sys2Proof

namespace Sys2Proof.Machine

/-! ### The statements about the encoding -/

/-- Settles O9: the mask checks and the decoder each refuse the words of `IllegalWord`. -/
theorem decoderAcceptsTheWellFormed : Obligations.DecoderAcceptsTheWellFormed := by
  intro c
  cases c with
  | command w => rw [wellFormed_command_iff, decode_eq_ok_iff_not_error, decode_eq_error_iff]
  | phase p => exact phaseAssigned_iff p

/-- Settles O7: the decoder reads the encoding back, and what it reads passes the checks. -/
theorem decodeOfEncode : Obligations.DecodeOfEncode := fun i =>
  ⟨(decoderAcceptsTheWellFormed _).mpr ⟨i, decode_encode i⟩, decode_encode i⟩

/-- Settles O8: the one direction of `decode_eq_ok_iff` that `decodeOfEncode` does not state. -/
theorem encodeOfDecode : Obligations.EncodeOfDecode := fun c i => (decode_eq_ok_iff c i).mp

/-- Settles O5: a word that decodes to an instruction is the instruction's encoding, whose number is the opcode's
multiple of 2^28 plus the operand. -/
theorem operandsAreTheNamedBits : Obligations.OperandsAreTheNamedBits := by
  refine fun w => ⟨fun u => ?_, fun k => ?_, fun j => ?_, ?_, ?_, ?_, ?_⟩
  · rw [decode_eq_ok_iff_toNat rfl]; rfl
  · rw [decode_eq_ok_iff_toNat rfl, BitVec.toNat_setWidth_of_le (by decide)]; rfl
  · rw [decode_eq_ok_iff_toNat rfl, BitVec.toNat_setWidth_of_le (by decide)]; rfl
  all_goals rw [decode_eq_ok_iff_toNat rfl]; rfl

/-- Settles O6: the words refused are those of `IllegalWord`, and a refused word is answered with ILLEGAL. -/
theorem illegalWordsAnswerIllegal : Obligations.IllegalWordsAnswerIllegal := fun w =>
  ⟨decode_eq_error_iff w, fun ⟨_, he⟩ => hostStep_of_illegal he⟩

/-! ### The POLL loop and the notation (rule R122, rule R123) -/

theorem hostStep_pollWord (s : State) : hostStep pollWord s = .next (s.respond .ok s.status) :=
  hostStep_of_decode (decode_encode .rdregStatus) s

/-- The answer to RDREG STATUS shows whether STATE is BUSY. -/
theorem lastAnswerIsBusy_status (s : State) (c : RespCode) :
    lastAnswerIsBusy (s.respond c s.status) = true ↔ s.state = .busy := by
  have hbits : s.state.bits = 2#3 ↔ s.state = .busy := by cases s.state <;> decide
  simp [lastAnswerIsBusy, State.status, statusWord_state_bits, hbits]

/-- Settles O15: RDREG STATUS is answered in every STATE, and the loop goes on by the BUSY bits of its answer. -/
theorem pollAsksUntilNotBusy : Obligations.PollAsksUntilNotBusy := by
  intro s rest hm
  rw [step, takeMove_cons hm, runMove, pollStep, hostStep_pollWord]
  simp only [lastAnswerIsBusy_status]
  split <;> rfl

/-- Settles O60: the three fixed texts, read by the model's assembler. -/
theorem assemblyExamples : Obligations.AssemblyExamples := ⟨by decide, by decide, by decide⟩

end Sys2Proof.Machine
end

section
/-! PROOFS. The encoder (rule R150 to rule R164): what U_ENC does with a code unit that is a group of its own, with a
surrogate pair and with an unpaired surrogate; the bytes it emits as numbers; and that the encoder as a function answers
the library's UTF-8 bytes. -/

namespace Sys2Proof.Machine

/-! ### The five classes of a code unit (rule R153) -/

theorem isHighSurrogate_iff (u : CodeUnit) :
    isHighSurrogate u = true ↔ 0xD800 ≤ u.toNat ∧ u.toNat ≤ 0xDBFF := by
  simp [isHighSurrogate, BitVec.le_def]

theorem isLowSurrogate_iff (u : CodeUnit) : isLowSurrogate u = true ↔ 0xDC00 ≤ u.toNat ∧ u.toNat ≤ 0xDFFF := by
  simp [isLowSurrogate, BitVec.le_def]

section
variable {u : CodeUnit}

theorem unitBytes_of_lt_0x80 (h : u.toNat < 0x80) : unitBytes u = some (emit1 u) := if_pos h

theorem unitBytes_of_lt_0x800 (h : 0x80 ≤ u.toNat) (h' : u.toNat < 0x800) : unitBytes u = some (emit2 u) := by
  rw [unitBytes, if_neg (by omega), if_pos h']

theorem unitBytes_of_not_surrogate (h : 0x800 ≤ u.toNat) (h' : u.toNat < 0xD800 ∨ 0xDFFF < u.toNat) :
    unitBytes u = some (emit3 u) := by
  rw [unitBytes, if_neg (by omega), if_neg (by omega), if_neg]
  rw [Bool.or_eq_true, isHighSurrogate_iff, isLowSurrogate_iff]
  omega

/-- No surrogate is a group of its own. -/
theorem unitBytes_of_surrogate (h : 0xD800 ≤ u.toNat) (h' : u.toNat ≤ 0xDFFF) : unitBytes u = none := by
  rw [unitBytes, if_neg (by omega), if_neg (by omega), if_pos]
  rw [Bool.or_eq_true, isHighSurrogate_iff, isLowSurrogate_iff]
  omega

end

/-! ### One step of U_ENC -/

section
variable {s : State} {u v : CodeUnit}

/-- A code unit that is a group of its own is emitted as the bytes of the encoder function (rule R154 to rule R156). -/
theorem encodeStep_of_unit {bs : List Byte} (hlt : s.ci < s.cuCount.toNat) (hu : s.cu.read s.ci = some u)
    (hbs : unitBytes u = some bs) : encodeStep s = .ok (s.emitGroup bs 1) := by
  rw [encodeStep, if_neg (by omega), (readCu_eq_ok s s.ci u).mpr ⟨hlt, hu⟩, Except.ok_bind_eq]
  by_cases h1 : u.toNat < 0x80
  · rw [unitBytes_of_lt_0x80 h1, Option.some_inj] at hbs
    rw [if_pos (by bv_omega), hbs]
  by_cases h2 : u.toNat < 0x800
  · rw [unitBytes_of_lt_0x800 (by omega) h2, Option.some_inj] at hbs
    rw [if_neg (by bv_omega), if_pos (by bv_omega), hbs]
  by_cases h3 : u.toNat < 0xD800 ∨ 0xDFFF < u.toNat
  · rw [unitBytes_of_not_surrogate (by omega) h3, Option.some_inj] at hbs
    rw [if_neg (by bv_omega), if_neg (by bv_omega), if_pos (by bv_omega), hbs]
  · rw [unitBytes_of_surrogate (by omega) (by omega)] at hbs
    cases hbs

/-- A surrogate pair is one group of two code units (rule R157). -/
theorem encodeStep_of_pair (hlt : s.ci + 1 < s.cuCount.toNat) (hu : s.cu.read s.ci = some u)
    (hv : s.cu.read (s.ci + 1) = some v) (hulo : 0xD800 ≤ u.toNat) (huhi : u.toNat ≤ 0xDBFF) (hvlo : 0xDC00 ≤ v.toNat)
    (hvhi : v.toNat ≤ 0xDFFF) : encodeStep s = .ok (s.emitGroup (emit4 (pairCodePoint u v)) 2) := by
  rw [encodeStep_of_highSurrogate (by omega) hu hulo huhi, encodePair, if_neg (by omega),
    (readCu_eq_ok s (s.ci + 1) v).mpr ⟨hlt, hv⟩, Except.ok_bind_eq, if_neg (by bv_omega)]

/-- A high surrogate at the end of the input (rule R160). -/
theorem encodeStep_of_trailingHigh (hlt : s.ci < s.cuCount.toNat) (hu : s.cu.read s.ci = some u)
    (hlo : 0xD800 ≤ u.toNat) (hhi : u.toNat ≤ 0xDBFF) (hend : s.ci + 1 = s.cuCount.toNat) :
    encodeStep s = .ok s.raiseMalformed := by
  rw [encodeStep_of_highSurrogate hlt hu hlo hhi, encodePair, if_pos hend]

/-- A high surrogate before a code unit that is no low surrogate (rule R161). -/
theorem encodeStep_of_unpairedHigh (hlt : s.ci + 1 < s.cuCount.toNat) (hu : s.cu.read s.ci = some u)
    (hlo : 0xD800 ≤ u.toNat) (hhi : u.toNat ≤ 0xDBFF) (hv : s.cu.read (s.ci + 1) = some v)
    (hnot : v.toNat < 0xDC00 ∨ 0xDFFF < v.toNat) : encodeStep s = .ok s.raiseMalformed := by
  rw [encodeStep_of_highSurrogate (by omega) hu hlo hhi, encodePair, if_neg (by omega),
    (readCu_eq_ok s (s.ci + 1) v).mpr ⟨hlt, hv⟩, Except.ok_bind_eq, if_pos (by bv_omega)]

/-- A low surrogate that is not the second unit of a pair (rule R162). -/
theorem encodeStep_of_unpairedLow (hlt : s.ci < s.cuCount.toNat) (hu : s.cu.read s.ci = some u)
    (hlo : 0xDC00 ≤ u.toNat) (hhi : u.toNat ≤ 0xDFFF) : encodeStep s = .ok s.raiseMalformed := by
  rw [encodeStep, if_neg (by omega), (readCu_eq_ok s s.ci u).mpr ⟨hlt, hu⟩, Except.ok_bind_eq, if_neg (by bv_omega),
    if_neg (by bv_omega), if_neg (by bv_omega), if_neg (by bv_omega)]

theorem exec_uEnc_of_encodeStep {t : State} (hb : s.state = .busy) (hp : s.phase = 1#4) (h : encodeStep s = .ok t) :
    exec .uEnc s = .next t := by
  rw [exec_uEnc_of_enabled hb hp, finish_eq_next, h]

end

/-! ### What a group writes to MSG (rule R163) -/

@[simp] theorem emit1_length (u : CodeUnit) : (emit1 u).length = 1 := rfl
@[simp] theorem emit2_length (u : CodeUnit) : (emit2 u).length = 2 := rfl
@[simp] theorem emit3_length (u : CodeUnit) : (emit3 u).length = 3 := rfl
@[simp] theorem emit4_length (x : Word) : (emit4 x).length = 4 := rfl

theorem State.emitGroup_read (s : State) {bs : List Byte} (n : Nat) {k : Nat} (h : k < bs.length) :
    (s.emitGroup bs n).msg.read (s.msgLen + k) = bs[k]? := Space.read_writeAll_inside bs s.msg h

theorem State.emitGroup_read_outside (s : State) {bs : List Byte} (n : Nat) {j : Nat}
    (h : j < s.msgLen ∨ s.msgLen + bs.length ≤ j) : (s.emitGroup bs n).msg.read j = s.msg.read j :=
  Space.read_writeAll_outside bs s.msg h

/-! ### The emitted bytes as numbers -/

/-- A code unit as a word is the same number. -/
theorem codeUnit_word_toNat (u : CodeUnit) : (u.setWidth 32 : Word).toNat = u.toNat :=
  BitVec.toNat_setWidth_of_le (by decide)

theorem continuation_toNat (x : Word) : (continuation x).toNat = 0x80 ||| (x.toNat &&& 0x3F) := by
  have h : x.toNat &&& 0x3F < 2 ^ 8 := Nat.lt_of_le_of_lt Nat.and_le_right (by decide)
  rw [continuation, BitVec.toNat_or, BitVec.toNat_setWidth, BitVec.toNat_and]
  exact congrArg (0x80 ||| ·) (Nat.mod_eq_of_lt h)

theorem continuation_shift_toNat (x : Word) (k : Nat) :
    (continuation (x >>> k)).toNat = 0x80 ||| ((x.toNat >>> k) &&& 0x3F) := by
  rw [continuation_toNat, BitVec.toNat_ushiftRight]

/-- A lead byte is its mark together with the bits of the code point from `k` on, where these fit one byte. -/
theorem leadByte_toNat (m : Byte) (x : Word) (k : Nat) (h : x.toNat < 2 ^ (k + 8)) :
    (m ||| (x >>> k).setWidth 8).toNat = m.toNat ||| (x.toNat >>> k) := by
  have hk : x.toNat >>> k < 2 ^ 8 := by
    rw [Nat.shiftRight_eq_div_pow]
    exact Nat.div_lt_of_lt_mul (Nat.pow_add .. ▸ h)
  rw [BitVec.toNat_or, BitVec.toNat_setWidth, BitVec.toNat_ushiftRight, Nat.mod_eq_of_lt hk]

/-- The lead byte of a two-byte group (rule R155). -/
theorem lead2_bounds {n : Nat} (h : 0x80 ≤ n) (h' : n < 0x800) :
    0xC2 ≤ 0xC0 ||| (n >>> 6) ∧ 0xC0 ||| (n >>> 6) ≤ 0xDF := by
  have hk : n >>> 6 < 2 ^ 6 := by omega
  rw [show 0xC0 = 3 <<< 6 from rfl, ← Nat.shiftLeft_add_eq_or_of_lt hk]
  omega

/-- The twenty bits of a pair (rule R158): the low ten of its first unit above the low ten of its second. -/
theorem pairBits_eq (m n : Nat) : ((m &&& 0x3FF) <<< 10) ||| (n &&& 0x3FF) = m % 2 ^ 10 * 2 ^ 10 + n % 2 ^ 10 := by
  rw [show 0x3FF = 2 ^ 10 - 1 from rfl, Nat.and_two_pow_sub_one_eq_mod, Nat.and_two_pow_sub_one_eq_mod,
    ← Nat.shiftLeft_add_eq_or_of_lt (Nat.mod_lt _ (by decide)), Nat.shiftLeft_eq]

theorem pairCodePoint_toNat (u v : CodeUnit) :
    (pairCodePoint u v).toNat = 0x10000 + (((u.toNat &&& 0x3FF) <<< 10) ||| (v.toNat &&& 0x3FF)) := by
  have hmask : ∀ x : CodeUnit, (x.setWidth 32 &&& 0x3FF#32).toNat = x.toNat &&& 0x3FF := fun x =>
    congrArg (· &&& 0x3FF) (codeUnit_word_toNat x)
  have hfit : (u.toNat &&& 0x3FF) <<< 10 < 2 ^ 32 := by
    have : u.toNat &&& 0x3FF ≤ 0x3FF := Nat.and_le_right
    omega
  have hbits := pairBits_eq u.toNat v.toNat
  rw [pairCodePoint, BitVec.toNat_add, BitVec.toNat_or, BitVec.toNat_shiftLeft, hmask, hmask, Nat.mod_eq_of_lt hfit]
  exact Nat.mod_eq_of_lt (by rw [hbits]; simp; omega)

theorem pairCodePoint_bounds (u v : CodeUnit) :
    0x10000 ≤ (pairCodePoint u v).toNat ∧ (pairCodePoint u v).toNat ≤ 0x10FFFF := by
  rw [pairCodePoint_toNat, pairBits_eq]
  omega

/-! ### The emitted bytes as the library writes them -/

theorem continuation_eq_ofNat (x : Word) : continuation x = BitVec.ofNat 8 (x.toNat % 64 + 128) := by
  apply BitVec.eq_of_toNat_eq
  rw [continuation_toNat, show 0x3F = 2 ^ 6 - 1 from rfl, Nat.and_two_pow_sub_one_eq_mod, show 0x80 = 2 <<< 6 from rfl,
    ← Nat.shiftLeft_add_eq_or_of_lt (Nat.mod_lt _ (by decide)), BitVec.toNat_ofNat]
  omega

theorem continuation_shift_eq_ofNat (x : Word) (k : Nat) :
    continuation (x >>> k) = BitVec.ofNat 8 (x.toNat / 2 ^ k % 64 + 128) := by
  rw [continuation_eq_ofNat, BitVec.toNat_ushiftRight, Nat.shiftRight_eq_div_pow]

/-- A lead byte whose mark leaves `j` low bits free, of a code point that has no bit above them. -/
theorem leadByte_eq_ofNat (a j k : Nat) (x : Word) (h : x.toNat / 2 ^ k < 2 ^ j) :
    BitVec.ofNat 8 (a <<< j) ||| (x >>> k).setWidth 8 = BitVec.ofNat 8 (x.toNat / 2 ^ k % 2 ^ j + a <<< j) := by
  rw [← BitVec.ofNat_toNat, BitVec.toNat_ushiftRight, Nat.shiftRight_eq_div_pow, ← BitVec.ofNat_or,
    ← Nat.shiftLeft_add_eq_or_of_lt h, Nat.mod_eq_of_lt h, Nat.add_comm]

section
variable {c : Char}

theorem emit1_eq_utf8 {u : CodeUnit} (hu : u.toNat = c.val.toNat) (h : u.toNat < 0x80) :
    emit1 u = (String.utf8EncodeChar c).map UInt8.toBitVec := by
  rw [String.utf8EncodeChar, ← hu, if_pos (by omega), emit1, ← BitVec.ofNat_toNat]
  rfl

theorem emit2_eq_utf8 {u : CodeUnit} (hu : u.toNat = c.val.toNat) (h : 0x80 ≤ u.toNat) (h' : u.toNat < 0x800) :
    emit2 u = (String.utf8EncodeChar c).map UInt8.toBitVec := by
  have hx := codeUnit_word_toNat u
  rw [String.utf8EncodeChar, ← hu, ← hx, if_neg (by omega), if_pos (by omega), emit2, continuation_eq_ofNat]
  exact congrArg (· :: _) (leadByte_eq_ofNat 6 5 6 _ (by omega))

theorem emit3_eq_utf8 {u : CodeUnit} (hu : u.toNat = c.val.toNat) (h : 0x800 ≤ u.toNat) :
    emit3 u = (String.utf8EncodeChar c).map UInt8.toBitVec := by
  have hx := codeUnit_word_toNat u
  rw [String.utf8EncodeChar, ← hu, ← hx, if_neg (by omega), if_neg (by omega), if_pos (by omega), emit3,
    continuation_eq_ofNat (u.setWidth 32), continuation_shift_eq_ofNat]
  exact congrArg (· :: _) (leadByte_eq_ofNat 14 4 12 _ (by omega))

theorem emit4_eq_utf8 {x : Word} (hx : x.toNat = c.val.toNat) (h : 0x10000 ≤ x.toNat) (h' : x.toNat ≤ 0x10FFFF) :
    emit4 x = (String.utf8EncodeChar c).map UInt8.toBitVec := by
  rw [String.utf8EncodeChar, ← hx, if_neg (by omega), if_neg (by omega), if_neg (by omega), emit4,
    continuation_eq_ofNat x, continuation_shift_eq_ofNat, continuation_shift_eq_ofNat]
  exact congrArg (· :: _) (leadByte_eq_ofNat 30 3 18 _ (by omega))

end

/-! ### The encoder as a function (rule R164) -/

theorem encodeFrom_of_unit {u : CodeUnit} {bs : List Byte} (h : unitBytes u = some bs) (i : Nat)
    (rest : List CodeUnit) :
    encodeFrom i (u :: rest) = prependBytes bs (encodeFrom (i + 1) rest) := by
  cases rest <;> simp [encodeFrom, h, prependBytes]

theorem encodeFrom_of_pair {u v : CodeUnit} (hu : isHighSurrogate u = true) (hv : isLowSurrogate v = true) (i : Nat)
    (rest : List CodeUnit) :
    encodeFrom i (u :: v :: rest) = prependBytes (emit4 (pairCodePoint u v)) (encodeFrom (i + 2) rest) := by
  have hnone : unitBytes u = none := by
    have := (isHighSurrogate_iff u).mp hu
    exact unitBytes_of_surrogate (by omega) (by omega)
  simp [encodeFrom, hnone, hu, hv]

/-- A character is a scalar value: no surrogate, and at most 0x10FFFF. -/
theorem char_scalar (c : Char) : c.toNat < 0xD800 ∨ 0xDFFF < c.toNat ∧ c.toNat < 0x110000 := c.valid

theorem utf16_of_basic {c : Char} (h : c.toNat < 0x10000) : ∃ u, utf16 c = [u] ∧ u.toNat = c.toNat :=
  ⟨_, if_pos h, Nat.mod_eq_of_lt h⟩

/-- A character above the basic plane is the surrogate pair of its code point (rule R123, rule R158). -/
theorem utf16_of_supplementary {c : Char} (h : 0x10000 ≤ c.toNat) :
    ∃ u v, utf16 c = [u, v] ∧ isHighSurrogate u = true ∧ isLowSurrogate v = true ∧
      (pairCodePoint u v).toNat = c.toNat := by
  have hmax := char_scalar c
  refine ⟨_, _, if_neg (by omega), ?_⟩
  rw [isHighSurrogate_iff, isLowSurrogate_iff, pairCodePoint_toNat, pairBits_eq, BitVec.toNat_ofNat, BitVec.toNat_ofNat]
  omega

/-- A code unit that is a character by itself is a group of its own, with the library's bytes. -/
theorem unitBytes_of_char {c : Char} {u : CodeUnit} (hu : u.toNat = c.toNat) :
    unitBytes u = some ((String.utf8EncodeChar c).map UInt8.toBitVec) := by
  have hscalar := char_scalar c
  by_cases h1 : u.toNat < 0x80
  · rw [unitBytes_of_lt_0x80 h1, emit1_eq_utf8 hu h1]
  by_cases h2 : u.toNat < 0x800
  · rw [unitBytes_of_lt_0x800 (by omega) h2, emit2_eq_utf8 hu (by omega) h2]
  · rw [unitBytes_of_not_surrogate (by omega) (by omega), emit3_eq_utf8 hu (by omega)]

/-- The group of one character's code units is encoded as the library's bytes of the character. -/
theorem encodeFrom_utf16_append (c : Char) (i : Nat) (rest : List CodeUnit) :
    encodeFrom i (utf16 c ++ rest) =
      prependBytes ((String.utf8EncodeChar c).map UInt8.toBitVec) (encodeFrom (i + (utf16 c).length) rest) := by
  by_cases h : c.toNat < 0x10000
  · obtain ⟨u, hc, hu⟩ := utf16_of_basic h
    rw [hc]
    exact encodeFrom_of_unit (unitBytes_of_char hu) i rest
  · obtain ⟨u, v, hc, hu, hv, hcp⟩ := utf16_of_supplementary (by omega : 0x10000 ≤ c.toNat)
    obtain ⟨hmin, hmax⟩ := pairCodePoint_bounds u v
    rw [hc, ← emit4_eq_utf8 hcp hmin hmax]
    exact encodeFrom_of_pair hu hv i rest

/-- The bytes of a text do not depend on the index it starts at. -/
theorem encodeFrom_flatMap_utf16 (text : List Char) (i : Nat) :
    encodeFrom i (text.flatMap utf16) = .ok ((text.flatMap String.utf8EncodeChar).map UInt8.toBitVec) := by
  induction text generalizing i with
  | nil => rfl
  | cons c text ih =>
    rw [List.flatMap_cons, encodeFrom_utf16_append, ih, List.flatMap_cons, List.map_append, prependBytes]

/-! ### The statements about the encoder -/

/-- Settles O32: each character's code units are encoded as its UTF-8 bytes, by induction on the text. -/
theorem encodeTextIsStandardUtf8 : Obligations.EncodeTextIsStandardUtf8 := fun text => encodeFrom_flatMap_utf16 text 0

/-- Settles O26: the end of the input is the first case of U_ENC, and the invariant says that BYTE_LEN is the length. -/
theorem encoderHandsOverAtTheEnd : Obligations.EncoderHandsOverAtTheEnd := fun _ hb hp hend =>
  ⟨exec_uEnc_of_encodeStep hb hp (if_pos hend), fun hinv => hinv.encodedLength (.inl hp)⟩

/-- Settles O27: the group is emit1's byte, the low byte of the code unit. -/
theorem encoderEmitsOneByte : Obligations.EncoderEmitsOneByte := by
  intro s u hb hp hlt hu h
  refine ⟨s.emitGroup (emit1 u) 1,
    exec_uEnc_of_encodeStep hb hp (encodeStep_of_unit hlt hu (unitBytes_of_lt_0x80 h)), ?_, ?_, rfl⟩
  · rw [← BitVec.setWidth_eq_extractLsb' (by decide)]
    exact s.emitGroup_read 1 (k := 0) (by simp)
  · intro j hj
    exact s.emitGroup_read_outside 1 (by rw [emit1_length]; omega)

/-- Settles O28: the group is emit2's bytes. -/
theorem encoderEmitsTwoBytes : Obligations.EncoderEmitsTwoBytes := by
  intro s u hb hp hlt hu h h'
  have hx := codeUnit_word_toNat u
  have hlead : (0xC0#8 ||| ((u.setWidth 32) >>> 6).setWidth 8).toNat = (0xC0 ||| (u.toNat >>> 6)) :=
    hx ▸ leadByte_toNat 0xC0#8 _ 6 (by omega)
  exact ⟨s.emitGroup (emit2 u) 1, _, _,
    exec_uEnc_of_encodeStep hb hp (encodeStep_of_unit hlt hu (unitBytes_of_lt_0x800 h h')),
    hlead, hx ▸ continuation_toNat (u.setWidth 32), hlead ▸ (lead2_bounds h h').1, hlead ▸ (lead2_bounds h h').2,
    s.emitGroup_read 1 (k := 0) (by simp), s.emitGroup_read 1 (k := 1) (by simp),
    fun j hj => s.emitGroup_read_outside 1 hj, rfl⟩

/-- Settles O29: the group is emit3's bytes. -/
theorem encoderEmitsThreeBytes : Obligations.EncoderEmitsThreeBytes := by
  intro s u hb hp hlt hu h h'
  have hx := codeUnit_word_toNat u
  exact ⟨s.emitGroup (emit3 u) 1, _, _, _,
    exec_uEnc_of_encodeStep hb hp (encodeStep_of_unit hlt hu (unitBytes_of_not_surrogate h h')),
    hx ▸ leadByte_toNat 0xE0#8 _ 12 (by omega), hx ▸ continuation_shift_toNat (u.setWidth 32) 6,
    hx ▸ continuation_toNat (u.setWidth 32),
    s.emitGroup_read 1 (k := 0) (by simp), s.emitGroup_read 1 (k := 1) (by simp), s.emitGroup_read 1 (k := 2) (by simp),
    fun j hj => s.emitGroup_read_outside 1 hj, rfl⟩

/-- Settles O30: the group is emit4's bytes of the pair's code point. -/
theorem encoderEmitsAPair : Obligations.EncoderEmitsAPair := by
  intro s u v hb hp hlt hu hv hulo huhi hvlo hvhi
  obtain ⟨hmin, hmax⟩ := pairCodePoint_bounds u v
  exact ⟨s.emitGroup (emit4 (pairCodePoint u v)) 2, (pairCodePoint u v).toNat, _, _, _, _,
    exec_uEnc_of_encodeStep hb hp (encodeStep_of_pair hlt hu hv hulo huhi hvlo hvhi),
    pairCodePoint_toNat u v, hmin, hmax,
    leadByte_toNat 0xF0#8 _ 18 (by omega), continuation_shift_toNat _ 12, continuation_shift_toNat _ 6,
    continuation_toNat _,
    s.emitGroup_read 2 (k := 0) (by simp), s.emitGroup_read 2 (k := 1) (by simp), s.emitGroup_read 2 (k := 2) (by simp),
    s.emitGroup_read 2 (k := 3) (by simp), fun j hj => s.emitGroup_read_outside 2 hj, rfl⟩

/-- Settles O31: each of the three cases ends U_ENC's step in `raise MALFORMED(CI)`. -/
theorem unpairedSurrogatesAreMalformed : Obligations.UnpairedSurrogatesAreMalformed := by
  intro s u hb hp hlt hu hcases
  refine exec_uEnc_of_encodeStep (t := s.raiseMalformed) hb hp ?_
  rcases hcases with ⟨hlo, hhi, hend⟩ | ⟨hlo, hhi, hmore, v, hv, hnot⟩ | ⟨hlo, hhi⟩
  · exact encodeStep_of_trailingHigh hlt hu hlo hhi hend
  · exact encodeStep_of_unpairedHigh (by omega) hu hlo hhi hv hnot
  · exact encodeStep_of_unpairedLow hlt hu hlo hhi

end Sys2Proof.Machine
end

section
/-! PROOFS. The padder (rule R181 to rule R189): the padded length; the marker, the zeros and the length field as one
sequence of bytes, which `pad` appends to a message and U_PAD writes after it; and the length field as a number. -/

namespace Sys2Proof.Machine

/-! ### The padded length (rule R182, rule R187, rule R188) -/

theorem paddedLength_eq_ceil (len : Nat) : paddedLength len = 64 * ((len + 9 + 63) / 64) := by
  unfold paddedLength
  omega

/-- No smaller multiple of 64 has room for the marker and the length field. -/
theorem paddedLength_le_of_multiple {len p : Nat} (hp : p % 64 = 0) (h : len + 9 ≤ p) : paddedLength len ≤ p := by
  rw [paddedLength_eq_ceil]
  omega

/-- Between the marker and the length field there are at most 63 zeros (rule R184). -/
theorem paddedLength_sub_le (len : Nat) : paddedLength len - len - 9 ≤ 63 := by
  rw [paddedLength_eq_ceil]
  omega

theorem paddedLength_of_room {len : Nat} (h : len % 64 < 56) : paddedLength len = 64 * (len / 64 + 1) := by
  rw [paddedLength_eq_ceil]
  omega

theorem paddedLength_of_no_room {len : Nat} (h : 56 ≤ len % 64) : paddedLength len = 64 * (len / 64 + 2) := by
  rw [paddedLength_eq_ceil]
  omega

/-! ### The length field (rule R185) -/

/-- The 64-bit big-endian bit length. -/
def lengthField (bits : Nat) : List Byte := wordBytes (lengthHigh bits) ++ wordBytes (lengthLow bits)

@[simp] theorem wordBytes_length (v : Word) : (wordBytes v).length = 4 := rfl
@[simp] theorem lengthField_length (bits : Nat) : (lengthField bits).length = 8 := rfl

theorem lengthLow_eq_ofNat (bits : Nat) : lengthLow bits = BitVec.ofNat 32 bits :=
  BitVec.eq_of_toNat_eq (by simp [lengthLow])

theorem extractLsb'_ofNat {w k n : Nat} (h : k + n ≤ w) (x : Nat) :
    (BitVec.ofNat w x).extractLsb' k n = BitVec.ofNat n (x / 2 ^ k) := by
  ext i hi
  rw [BitVec.getElem_extractLsb', BitVec.getLsbD_ofNat, ← BitVec.getLsbD_eq_getElem, BitVec.getLsbD_ofNat,
    Nat.testBit_div_two_pow, Nat.add_comm, decide_eq_true hi, decide_eq_true (by omega)]

theorem wordBytes_ofNat (x : Nat) : wordBytes (BitVec.ofNat 32 x) =
    [BitVec.ofNat 8 (x / 2 ^ 24), BitVec.ofNat 8 (x / 2 ^ 16), BitVec.ofNat 8 (x / 2 ^ 8), BitVec.ofNat 8 x] := by
  simp [wordBytes, extractLsb'_ofNat]

theorem lengthField_eq_map (bits : Nat) :
    lengthField bits = (List.range 8).map fun j => BitVec.ofNat 8 (bits / 256 ^ (7 - j)) := by
  rw [lengthField, lengthLow_eq_ofNat, lengthHigh, wordBytes_ofNat, wordBytes_ofNat]
  simp [Nat.div_div_eq_div_mul, List.range_succ]

theorem lengthField_getElem? (bits : Nat) {j : Nat} (h : j < 8) :
    (lengthField bits)[j]? = some (BitVec.ofNat 8 (bits / 256 ^ (7 - j))) := by
  simp [lengthField_eq_map, h]

/-- Reading a word's bytes on after a number `n` appends the word to `n`. -/
theorem foldl_wordBytes (n : Nat) (v : Word) :
    (wordBytes v).foldl (fun n b => 256 * n + b.toNat) n = 2 ^ 32 * n + v.toNat := by
  simp only [wordBytes, List.foldl_cons, List.foldl_nil, BitVec.extractLsb'_toNat, Nat.shiftRight_eq_div_pow]
  omega

theorem foldl_lengthField {bits : Nat} (h : bits < 2 ^ 64) :
    (lengthField bits).foldl (fun n b => 256 * n + b.toNat) 0 = bits := by
  rw [lengthField, List.foldl_append, foldl_wordBytes, foldl_wordBytes, lengthHigh, lengthLow, BitVec.toNat_ofNat,
    BitVec.toNat_ofNat]
  omega

/-! ### The bytes after a message -/

/-- What the padder puts after a message of `len` bytes: marker, zeros and length field. -/
def padding (len : Nat) : List Byte :=
  0x80#8 :: (List.replicate (paddedLength len - len - 9) 0x00#8 ++ lengthField (8 * len))

theorem add_padding_length (len : Nat) : len + (padding len).length = paddedLength len := by
  have := paddedLength_ge len
  simp only [padding, List.length_cons, List.length_append, List.length_replicate, lengthField_length]
  omega

theorem padding_getElem?_zero (len : Nat) : (padding len)[0]? = some 0x80#8 := rfl

theorem padding_getElem?_zeros {len k : Nat} (h : k < paddedLength len - len - 9) :
    (padding len)[k + 1]? = some 0x00#8 := by
  rw [padding, List.getElem?_cons_succ, List.getElem?_append_left (by simpa using h), List.getElem?_replicate_of_lt h]

theorem padding_getElem?_lengthField (len : Nat) {j : Nat} (h : j < 8) :
    (padding len)[paddedLength len - len - 8 + j]? = some (BitVec.ofNat 8 (8 * len / 256 ^ (7 - j))) := by
  have hge := paddedLength_ge len
  have hk : paddedLength len - len - 8 + j = paddedLength len - len - 9 + j + 1 := by omega
  rw [hk, padding, List.getElem?_cons_succ, List.getElem?_append_right (by simp), List.length_replicate,
    Nat.add_sub_cancel_left, lengthField_getElem? _ h]

theorem pad_eq_append (m : List Byte) : pad m = m ++ padding m.length := by
  simp [pad, padding, lengthField]

theorem pad_length (m : List Byte) : (pad m).length = paddedLength m.length := by
  rw [pad_eq_append, List.length_append, add_padding_length]

theorem drop_pad (m : List Byte) : (pad m).drop ((pad m).length - 8) = lengthField (8 * m.length) := by
  have h : pad m = (m ++ 0x80#8 :: List.replicate (paddedLength m.length - m.length - 9) 0x00#8) ++
      lengthField (8 * m.length) := by simp [pad_eq_append, padding]
  rw [h]
  exact List.drop_left' (by simp; omega)

/-! ### What U_PAD writes to MSG (rule R181) -/

/-- Two sequences written one after the other are written as one. -/
theorem Space.writeAll_append {α : Type} (xs ys : List α) (sp : Space α) (i : Nat) :
    sp.writeAll i (xs ++ ys) = (sp.writeAll i xs).writeAll (i + xs.length) ys := by
  induction xs generalizing sp i with
  | nil => rfl
  | cons x xs ih =>
    rw [List.cons_append, Space.writeAll, ih, Space.writeAll, List.length_cons, Nat.add_right_comm, Nat.add_assoc]

/-- The four writes of U_PAD are one, of `padding` at the end of the message. -/
theorem padMessage_eq_writeAll (m : Memory) (len : Nat) : padMessage m len = Space.writeAll m len (padding len) := by
  have hge := paddedLength_ge len
  rw [padding, Space.writeAll, Space.writeAll_append, lengthField, Space.writeAll_append,
    List.length_replicate, wordBytes_length,
    show len + 1 + (paddedLength len - len - 9) = paddedLength len - 8 by omega,
    show paddedLength len - 8 + 4 = paddedLength len - 4 by omega]
  rfl

theorem padMessage_read {m : Memory} {len k : Nat} (h : len + k < paddedLength len) :
    Space.read (padMessage m len) (len + k) = (padding len)[k]? := by
  rw [padMessage_eq_writeAll, Space.read_writeAll_inside]
  have := add_padding_length len
  omega

theorem padMessage_read_outside {m : Memory} {len j : Nat} (h : j < len ∨ paddedLength len ≤ j) :
    Space.read (padMessage m len) j = Space.read m j := by
  rw [padMessage_eq_writeAll, Space.read_writeAll_outside]
  rwa [add_padding_length]

/-- A message padded in MSG reads as `pad` of the message. -/
theorem padMessage_read_eq_pad {mem : Memory} {m : List Byte} (hm : ∀ j < m.length, Space.read mem j = m[j]?)
    {j : Nat} (hj : j < (pad m).length) : Space.read (padMessage mem m.length) j = (pad m)[j]? := by
  rw [pad_length] at hj
  rw [pad_eq_append]
  rcases Nat.lt_or_ge j m.length with hlt | hge
  · rw [padMessage_read_outside (.inl hlt), hm j hlt, List.getElem?_append_left hlt]
  · obtain ⟨k, rfl⟩ := Nat.exists_eq_add_of_le hge
    rw [padMessage_read hj, List.getElem?_append_right hge, Nat.add_sub_cancel_left]

/-! ### The PHASE of a micro-operation (rule R120) -/

/-- A micro-operation is the one that its encoding's PHASE selects. -/
theorem selectedBy_of_encode {i : Instr} {p : BitVec 4} (hi : i.isCommand = false) (he : encode i = .phase p) :
    selectedBy i p :=
  ⟨he, fun _ h => exec_microOp_of_not_enabled hi fun ⟨hb, hp⟩ => h ⟨hb, Code.phase.inj (hp.symm.trans he)⟩⟩

/-! ### The statements about the padder -/

/-- Settles O33: the padded length is `len + 9` rounded up to a multiple of 64, by one block or two past the last whole
block of the text. -/
theorem paddedLengthIsLeast : Obligations.PaddedLengthIsLeast := by
  intro len
  have hge := paddedLength_ge len
  have hblocks := paddedLength_eq_blocks len
  refine ⟨rfl, by omega, paddedLength_eq_ceil len, hge, fun p => paddedLength_le_of_multiple, by omega,
    by omega, ?_⟩
  rcases Nat.lt_or_ge (len % 64) 56 with hroom | hno
  · have := paddedLength_of_room hroom
    omega
  · have := paddedLength_of_no_room hno
    omega

/-- Settles O34: the bytes of MSG from L on are those of `padding`. -/
theorem padderWritesMarkerZerosAndLength : Obligations.PadderWritesMarkerZerosAndLength := by
  refine ⟨selectedBy_of_encode rfl rfl, fun s hb hp => ⟨padStep s, exec_uPad_of_enabled hb hp, ?_, ?_⟩⟩
  · rw [padStep, paddedLength, Nat.mul_div_cancel_left _ (by decide)]
  · have hge := paddedLength_ge s.msgLen
    rw [padStep_msg, padStep_msgLen]
    refine ⟨?_, hge, paddedLength_sub_le s.msgLen, fun j hlo hhi => ?_, fun _ j hj => ?_,
      fun j => padMessage_read_outside⟩
    · exact padMessage_read (k := 0) (by omega)
    · obtain ⟨k, rfl⟩ := Nat.exists_eq_add_of_le hlo
      rw [Nat.add_assoc, Nat.add_comm 1, padMessage_read (by omega), padding_getElem?_zeros (by omega)]
    · rw [show paddedLength s.msgLen - 8 + j = s.msgLen + (paddedLength s.msgLen - s.msgLen - 8 + j) by omega,
        padMessage_read (by omega), padding_getElem?_lengthField _ hj]

/-- Settles O35: `pad` appends to a message the bytes of `padding`, which U_PAD writes after it. -/
theorem padHasItsFourProperties : Obligations.PadHasItsFourProperties := by
  intro m hbits
  refine ⟨pad_length m, ?_, ?_, ?_, fun s hb hp hlen hmsg =>
    ⟨padStep s, exec_uPad_of_enabled hb hp, ?_, fun j hj => ?_⟩⟩
  · rw [pad_eq_append, List.take_left]
  · rw [pad_eq_append, List.getElem?_append_right (Nat.le_refl _), Nat.sub_self, padding_getElem?_zero]
  · rw [drop_pad, foldl_lengthField hbits]
  · rw [padStep_msgLen, ← hlen, pad_length]
  · rw [padStep_msg, ← hlen, padMessage_read_eq_pad hmsg hj]

end Sys2Proof.Machine
end

section
/-! PROOFS. The compressor (rule R200 to rule R226): its word functions bit by bit; what an enabled U_SCHED, U_COPY,
U_ROUND and U_FOLD answers once its operands are there; and that 130 sequencer steps on one block of the message compute
`compress`. -/

namespace Sys2Proof.Machine

/-! ### The word functions (rule R200 to rule R210) -/

theorem rotr_eq_rotateRight (x : Word) {n : Nat} (h : n ≤ 31) : rotr x n = x.rotateRight n := by
  rw [BitVec.rotateRight_def, Nat.mod_eq_of_lt (by omega : n < 32), rotr]
  split
  · next h0 => subst h0; ext i hi; simp
  · rfl

theorem rotr_getLsbD (x : Word) {n i : Nat} (hn : n ≤ 31) (hi : i < 32) :
    (rotr x n).getLsbD i = x.getLsbD ((i + n) % 32) := by
  rw [rotr_eq_rotateRight x hn, BitVec.getLsbD_rotateRight, Nat.mod_eq_of_lt (by omega : n < 32)]
  by_cases h : i < 32 - n
  · rw [decide_eq_true h, cond_true, Nat.mod_eq_of_lt (by omega), Nat.add_comm]
  · rw [decide_eq_false h, cond_false, decide_eq_true hi, Bool.true_and, Nat.mod_eq_sub_mod (by omega),
      Nat.mod_eq_of_lt (by omega), show i - (32 - n) = i + n - 32 by omega]

theorem shr_getLsbD (x : Word) (n i : Nat) : (shr x n).getLsbD i = x.getLsbD (i + n) := by
  rw [shr, BitVec.getLsbD_ushiftRight, Nat.add_comm]

theorem ch_getLsbD (x y z : Word) {i : Nat} (hi : i < 32) :
    (ch x y z).getLsbD i = if x.getLsbD i then y.getLsbD i else z.getLsbD i := by
  rw [ch, BitVec.getLsbD_xor, BitVec.getLsbD_and, BitVec.getLsbD_and, BitVec.getLsbD_not, decide_eq_true hi]
  cases x.getLsbD i <;> simp

theorem maj_getLsbD (x y z : Word) (i : Nat) :
    (maj x y z).getLsbD i =
      ((x.getLsbD i && y.getLsbD i) || (x.getLsbD i && z.getLsbD i) || (y.getLsbD i && z.getLsbD i)) := by
  simp only [maj, BitVec.getLsbD_xor, BitVec.getLsbD_and]
  cases x.getLsbD i <;> cases y.getLsbD i <;> simp

/-- Settles O36: each function is a combination of bits of its arguments, a rotation taking bit `(i + n) mod 32`. -/
theorem wordFunctionsBitByBit : Obligations.WordFunctionsBitByBit := by
  refine ⟨BitVec.toNat_add, fun x n i => rotr_getLsbD x, fun x n i _ _ => ?_, fun x i hi => ⟨?_, ?_, ?_, ?_⟩,
    fun x y z i hi => ⟨ch_getLsbD x y z hi, maj_getLsbD x y z i⟩⟩
  · rw [shr_getLsbD]
    split
    · rfl
    · exact BitVec.getLsbD_of_ge _ _ (by omega)
  · simp only [bigS0, BitVec.getLsbD_xor, rotr_getLsbD, Nat.reduceLeDiff, hi]
  · simp only [bigS1, BitVec.getLsbD_xor, rotr_getLsbD, Nat.reduceLeDiff, hi]
  · simp only [smallS0, BitVec.getLsbD_xor, rotr_getLsbD, Nat.reduceLeDiff, hi, shr_getLsbD]
  · simp only [smallS1, BitVec.getLsbD_xor, rotr_getLsbD, Nat.reduceLeDiff, hi, shr_getLsbD]

/-! ### The next word of the schedule (rule R216, rule R217) -/

theorem append_byte_toNat {n : Nat} (x : BitVec n) (b : Byte) : (x ++ b).toNat = 2 ^ 8 * x.toNat + b.toNat := by
  rw [BitVec.toNat_append, ← Nat.shiftLeft_add_eq_or_of_lt b.isLt, Nat.shiftLeft_eq, Nat.mul_comm]

theorem wordOfBytes_toNat (b0 b1 b2 b3 : Byte) :
    (wordOfBytes b0 b1 b2 b3).toNat = 2 ^ 24 * b0.toNat + 2 ^ 16 * b1.toNat + 2 ^ 8 * b2.toNat + b3.toNat := by
  simp only [wordOfBytes, append_byte_toNat]
  omega

/-- The words loaded into the schedule lie in the message: the block in progress is one of its NBLK blocks. -/
theorem MachineInv.scheduleWord_lt_msgLen {s : State} (h : MachineInv s) (hp : s.phase = 3#4) (ht : s.t.val ≤ 15) :
    64 * s.blk + 4 * s.t.val + 3 < s.msgLen := by
  obtain ⟨_, hlen⟩ := h.paddedBlocks (by simp [hp])
  have hblk : s.blk < s.nblk := h.blkLt (by simp [hp]) (by simp [hp])
  omega

section
variable {s : State}

theorem nextScheduleWord_of_message {b0 b1 b2 b3 : Byte} (ht : s.t.val ≤ 15)
    (hlen : 64 * s.blk + 4 * s.t.val + 3 < s.msgLen)
    (h0 : s.msg.read (64 * s.blk + 4 * s.t.val) = some b0) (h1 : s.msg.read (64 * s.blk + 4 * s.t.val + 1) = some b1)
    (h2 : s.msg.read (64 * s.blk + 4 * s.t.val + 2) = some b2)
    (h3 : s.msg.read (64 * s.blk + 4 * s.t.val + 3) = some b3) :
    nextScheduleWord s = .ok (wordOfBytes b0 b1 b2 b3) := by
  rw [nextScheduleWord, if_pos (by omega), memReadWord_eq_ok]
  exact ⟨hlen, b0, b1, b2, b3, h0, h1, h2, h3, rfl⟩

theorem nextScheduleWord_of_words {w16 w15 w7 w2 : Word} (ht : 16 ≤ s.t.val)
    (h16 : s.w.read (s.t.val - 16) = some w16) (h15 : s.w.read (s.t.val - 15) = some w15)
    (h7 : s.w.read (s.t.val - 7) = some w7) (h2 : s.w.read (s.t.val - 2) = some w2) :
    nextScheduleWord s = .ok (scheduleWord w16 w15 w7 w2) := by
  rw [← readW_eq_ok] at h16 h15 h7 h2
  rw [nextScheduleWord, if_neg (by omega)]
  simp only [h16, h15, h7, h2, Except.ok_bind_eq]

/-! ### What an enabled micro-operation answers once its operands are there -/

/-- U_SCHED's update as one record: T counts modulo 64, so it returns to 0 after the last word (rule R218). -/
theorem State.storeScheduleWord_eq (x : Word) : s.storeScheduleWord x =
    { s with w := s.w.write s.t.val x, t := s.t + 1, phase := if s.t = 63 then 4#4 else s.phase } := by
  unfold State.storeScheduleWord
  split
  · next h => rw [h]; rfl
  · rfl

/-- U_ROUND's update as one record: T stays at 63 after the last round (rule R222). -/
theorem State.storeRound_eq (v : WorkVars) : s.storeRound v =
    { s with vars := some v, t := if s.t = 63 then s.t else s.t + 1, phase := if s.t = 63 then 6#4 else s.phase } := by
  unfold State.storeRound
  split <;> rfl

variable (hb : s.state = .busy)
include hb

theorem exec_uSched_of_word (hp : s.phase = 3#4) (hn : 1 ≤ s.nblk) {x : Word} (hx : nextScheduleWord s = .ok x) :
    exec .uSched s = .next (s.storeScheduleWord x) := by
  rw [exec_uSched_of_enabled hb hp (by omega), hx]
  rfl

theorem exec_uCopy_of_hs (hp : s.phase = 4#4) {x : HashWords} (hx : s.hs = some x) :
    exec .uCopy s = .next (s.loadVars x.toVars) := by
  rw [exec_uCopy_of_enabled hb hp, (readHs_eq_ok s x).mpr hx]
  rfl

theorem exec_uRound_of_operands (hp : s.phase = 5#4) {v : WorkVars} {x : Word} (hv : s.vars = some v)
    (hx : s.w.read s.t.val = some x) : exec .uRound s = .next (s.storeRound (roundStep v (kAt s.t) x)) := by
  rw [exec_uRound_of_enabled hb hp, (readVars_eq_ok s v).mpr hv, (readW_eq_ok s _ x).mpr hx]
  rfl

theorem exec_uFold_of_operands (hp : s.phase = 6#4) {x : HashWords} {v : WorkVars} (hx : s.hs = some x)
    (hv : s.vars = some v) : exec .uFold s = .next (s.storeFold (x.fold v)) := by
  rw [exec_uFold_of_enabled hb hp, (readHs_eq_ok s x).mpr hx, (readVars_eq_ok s v).mpr hv]
  rfl

end

/-! ### The statements about one micro-operation -/

/-- Settles O37: the word of T < 16 comes from the message, and T, below 63, advances. -/
theorem scheduleLoadsAMessageWord : Obligations.ScheduleLoadsAMessageWord := by
  refine ⟨selectedBy_of_encode rfl rfl, fun s h _ => h.scheduleWord_lt_msgLen, ?_⟩
  intro s b0 b1 b2 b3 hb hp hn ht hlen h0 h1 h2 h3
  have hx := nextScheduleWord_of_message ht hlen h0 h1 h2 h3
  have h63 : s.t ≠ 63 := by omega
  refine ⟨_, _, exec_uSched_of_word hb hp hn hx, wordOfBytes_toNat b0 b1 b2 b3, ?_⟩
  rw [State.storeScheduleWord_eq, if_neg h63]
  exact ⟨Space.read_write_same _ _ _, fun j => Space.read_write_other _ _, Fin.val_add_one_of_lt' (by omega), rfl⟩

/-- Settles O38: the word comes from W below T, and T advances modulo 64. -/
theorem scheduleExpandsByOneWord : Obligations.ScheduleExpandsByOneWord := by
  refine ⟨selectedBy_of_encode rfl rfl, ?_⟩
  intro s w16 w15 w7 w2 hb hp hn ht h16 h15 h7 h2
  refine ⟨_, exec_uSched_of_word hb hp hn (nextScheduleWord_of_words ht h16 h15 h7 h2), ?_⟩
  rw [State.storeScheduleWord_eq]
  refine ⟨Space.read_write_same _ _ _, fun j => Space.read_write_other _ _, ?_, rfl⟩
  by_cases h63 : s.t = 63
  · simp [h63]
  · rw [if_neg (by omega), if_neg h63]
    exact ⟨Fin.val_add_one_of_lt' (by omega), hp⟩

/-- Settles O39: the one operand of U_COPY is HS. -/
theorem copyLoadsTheWorkingVariables : Obligations.CopyLoadsTheWorkingVariables :=
  ⟨selectedBy_of_encode rfl rfl, fun _ _ hb hp hx => exec_uCopy_of_hs hb hp hx⟩

/-- Settles O40: the round is `roundStep`, and T advances up to 63. -/
theorem roundComputesTheWorkingVariables : Obligations.RoundComputesTheWorkingVariables := by
  refine ⟨selectedBy_of_encode rfl rfl, ?_⟩
  intro s v x hb hp hv hx
  refine ⟨_, exec_uRound_of_operands hb hp hv hx, ?_⟩
  rw [State.storeRound_eq]
  refine ⟨rfl, ?_, rfl⟩
  by_cases h63 : s.t = 63
  · simp [h63]
  · rw [if_neg (by omega), if_neg h63, if_neg h63]
    exact ⟨Fin.val_add_one_of_lt' (by omega), hp⟩

/-- Settles O41: the operands of U_FOLD are HS and a..h. -/
theorem foldAddsTheWorkingVariables : Obligations.FoldAddsTheWorkingVariables :=
  ⟨selectedBy_of_encode rfl rfl, fun _ _ _ hb hp hx hv => exec_uFold_of_operands hb hp hx hv⟩

/-! ### The schedule as a function (rule R216, rule R217) -/

/-- Extending a schedule keeps its words. -/
theorem extendSchedule_getD_of_lt (n : Nat) {ws : List Word} {i : Nat} (h : i < ws.length) :
    (extendSchedule n ws).getD i 0#32 = ws.getD i 0#32 := by
  induction n generalizing ws with
  | zero => rfl
  | succ n ih => rw [extendSchedule, ih (by simp; omega), List.getD_append _ _ _ _ h]

/-- Each word that an extension adds is the expanded word of its place in the whole schedule. -/
theorem extendSchedule_getD_of_ge {n : Nat} {ws : List Word} {i : Nat} (h16 : 16 ≤ ws.length) (hge : ws.length ≤ i)
    (hlt : i < ws.length + n) :
    (extendSchedule n ws).getD i 0#32 =
      scheduleWord ((extendSchedule n ws).getD (i - 16) 0#32) ((extendSchedule n ws).getD (i - 15) 0#32)
        ((extendSchedule n ws).getD (i - 7) 0#32) ((extendSchedule n ws).getD (i - 2) 0#32) := by
  induction n generalizing ws with
  | zero => omega
  | succ n ih =>
    rw [extendSchedule]
    rcases Nat.eq_or_lt_of_le hge with rfl | hgt
    · have hkeep : ∀ d, 1 ≤ d → ∀ x : Word,
          (extendSchedule n (ws ++ [x])).getD (ws.length - d) 0#32 = ws.getD (ws.length - d) 0#32 := fun d hd x => by
        rw [extendSchedule_getD_of_lt n (by rw [List.length_append]; omega), List.getD_append _ _ _ _ (by omega)]
      rw [extendSchedule_getD_of_lt n (by simp), List.getD_append_right _ _ _ _ (Nat.le_refl _), Nat.sub_self,
        List.getD_cons_zero, hkeep 16 (by omega), hkeep 15 (by omega), hkeep 7 (by omega), hkeep 2 (by omega)]
    · exact ih (by simp; omega) (by simp; omega) (by simp; omega)

theorem schedule_getD_of_lt (blk : List Byte) {i : Nat} (h : i < 16) :
    (schedule blk).getD i 0#32 = blockWord blk i := by
  rw [schedule, extendSchedule_getD_of_lt _ (by simpa using h)]
  simp [List.getD_eq_getElem?_getD, h]

theorem schedule_getD_of_ge (blk : List Byte) {i : Nat} (hge : 16 ≤ i) (hlt : i < 64) :
    (schedule blk).getD i 0#32 =
      scheduleWord ((schedule blk).getD (i - 16) 0#32) ((schedule blk).getD (i - 15) 0#32)
        ((schedule blk).getD (i - 7) 0#32) ((schedule blk).getD (i - 2) 0#32) :=
  extendSchedule_getD_of_ge (by simp) (by simpa using hge) (by simpa using hlt)

/-! ### The rounds as a function (rule R220) -/

/-- The working variables after the first `n` rounds. -/
def roundsUpTo (ws : List Word) (v : WorkVars) (n : Nat) : WorkVars :=
  ((List.finRange 64).take n).foldl (fun v i => roundStep v (kAt i) (ws.getD i.val 0#32)) v

theorem roundsUpTo_zero (ws : List Word) (v : WorkVars) : roundsUpTo ws v 0 = v := rfl

theorem roundsUpTo_succ (ws : List Word) (v : WorkVars) (i : Fin 64) :
    roundsUpTo ws v (i.val + 1) = roundStep (roundsUpTo ws v i.val) (kAt i) (ws.getD i.val 0#32) := by
  rw [roundsUpTo, List.take_succ_eq_append_getElem (by simp), List.foldl_append, List.getElem_finRange]
  rfl

theorem roundsUpTo_all (ws : List Word) (v : WorkVars) : roundsUpTo ws v 64 = rounds ws v := by
  rw [roundsUpTo, List.take_of_length_le (by simp), rounds]

/-! ### Runs -/

/-- A run goes on from the state that its first `m` steps answer. -/
theorem run_trans {M : Host.Core} {m n : Nat} {s t : M.State} {o : Host.Outcome M.State M.Fault M.Refusal}
    (h : M.run m s = .next t) (h' : M.run n t = o) : M.run (m + n) s = o := by
  induction m generalizing s with
  | zero =>
    cases h
    rwa [Nat.zero_add]
  | succ m ih =>
    rw [Nat.add_right_comm, Host.Core.run]
    cases hs : M.step s with
    | next u => exact ih (by rwa [Host.Core.run, hs] at h)
    | fault f => simp [Host.Core.run, hs] at h
    | refused r => simp [Host.Core.run, hs] at h

theorem run_one {M : Host.Core} {s t : M.State} (h : M.step s = .next t) : M.run 1 s = .next t := by
  simp only [Host.Core.run, h]

/-- With no move left a BUSY block's step is the micro-operation that PHASE selects. -/
theorem step_of_phase {s : State} {p : BitVec 4} {i : Instr} (hb : s.state = .busy) (hm : s.moves = [])
    (hp : s.phase = p) (hd : decode (.phase p) = .ok i) : step s = exec i s :=
  (stepRunsTheMicroOperation s i hb (hp ▸ hd)).1 hm

/-! ### The states of one block's compression (rule R215) -/

/-- MSG holds the 64 bytes `blk` as its block number BLK. -/
structure HoldsBlock (s : State) (blk : List Byte) : Prop where
  length : blk.length = 64
  within : 64 * s.blk + 64 ≤ s.msgLen
  bytes : ∀ j < 64, s.msg.read (64 * s.blk + j) = blk[j]?

/-- W holds the first `n` words of a schedule. -/
def HoldsWords (w : Space Word) (ws : List Word) (n : Nat) : Prop := ∀ j < n, w.read j = some (ws.getD j 0#32)

/-- The state once `n` steps of U_SCHED have made W `w`: after the last of 64 it is in U_COPY (rule R218). -/
def State.scheduled (s : State) (w : Space Word) (n : Nat) : State :=
  { s with w := w, t := Fin.ofNat 64 n, phase := if n = 64 then 4#4 else 3#4 }

/-- The state once `n` steps of U_ROUND have made a..h `v`: after the last of 64 it is in U_FOLD, with T still 63
(rule R222). -/
def State.rounded (s : State) (v : WorkVars) (n : Nat) : State :=
  { s with vars := some v, t := Fin.ofNat 64 (min n 63), phase := if n = 64 then 6#4 else 5#4 }

theorem HoldsBlock.read {s : State} {blk : List Byte} (h : HoldsBlock s blk) {j : Nat} (hj : j < 64) :
    s.msg.read (64 * s.blk + j) = some (blk.getD j 0#8) := by
  rw [h.bytes j hj, List.getD_eq_getElem?_getD, List.getElem?_eq_getElem (h.length ▸ hj), Option.getD_some]

theorem HoldsWords.zero (w : Space Word) (ws : List Word) : HoldsWords w ws 0 :=
  fun _ hj => absurd hj (Nat.not_lt_zero _)

theorem HoldsWords.write {w : Space Word} {ws : List Word} {n : Nat} (h : HoldsWords w ws n) :
    HoldsWords (w.write n (ws.getD n 0#32)) ws (n + 1) := by
  intro j hj
  rw [Space.read_write]
  split
  · next hjn => rw [hjn]
  · exact h j (by omega)

section
variable {s : State}

theorem State.scheduled_zero (hp : s.phase = 3#4) (ht : s.t = 0) : s.scheduled s.w 0 = s := by
  obtain ⟨⟩ := s
  cases hp
  cases ht
  rfl

theorem State.scheduled_t (w : Space Word) (i : Fin 64) : (s.scheduled w i).t = i :=
  Fin.ext (Nat.mod_eq_of_lt i.isLt)

theorem State.scheduled_phase (w : Space Word) (i : Fin 64) : (s.scheduled w i).phase = 3#4 := if_neg (by omega)

theorem State.rounded_t (v : WorkVars) (i : Fin 64) : (s.rounded v i).t = i :=
  Fin.ext (by simp [State.rounded]; omega)

theorem State.rounded_phase (v : WorkVars) (i : Fin 64) : (s.rounded v i).phase = 5#4 := if_neg (by omega)

theorem State.storeScheduleWord_scheduled (w : Space Word) (x : Word) (i : Fin 64) :
    (s.scheduled w i).storeScheduleWord x = s.scheduled (w.write i x) (i + 1) := by
  have ht : i + 1 = Fin.ofNat 64 (i.val + 1) := Fin.ext (by simp [Fin.val_add])
  have h63 : i = 63 ↔ i.val + 1 = 64 := by omega
  rw [State.storeScheduleWord_eq, State.scheduled_t, State.scheduled_phase, ht]
  simp only [h63, State.scheduled]

theorem State.storeRound_rounded (v v' : WorkVars) (i : Fin 64) :
    (s.rounded v i).storeRound v' = s.rounded v' (i + 1) := by
  have ht : (if i.val + 1 = 64 then i else i + 1) = Fin.ofNat 64 (min (i.val + 1) 63) := by
    split <;> apply Fin.ext <;> simp [Fin.val_add] <;> omega
  have h63 : i = 63 ↔ i.val + 1 = 64 := by omega
  rw [State.storeRound_eq, State.rounded_t, State.rounded_phase]
  simp only [h63, ht, State.rounded]

/-- U_SCHED's word is the next word of the block's schedule. -/
theorem HoldsBlock.nextScheduleWord {blk : List Byte} (h : HoldsBlock s blk) {w : Space Word} {i : Fin 64}
    (hw : HoldsWords w (schedule blk) i) :
    nextScheduleWord (s.scheduled w i) = .ok ((schedule blk).getD i 0#32) := by
  have ht := State.scheduled_t (s := s) w i
  rcases Nat.lt_or_ge i 16 with hlt | hge
  · have hlen := h.within
    have hread : ∀ d < 4, s.msg.read (64 * s.blk + 4 * i + d) = some (blk.getD (4 * i + d) 0#8) := fun d hd => by
      rw [Nat.add_assoc, h.read (by omega)]
    rw [schedule_getD_of_lt blk hlt]
    refine nextScheduleWord_of_message ?_ ?_ ?_ ?_ ?_ ?_ <;> rw [ht]
    exacts [by omega, show 64 * s.blk + 4 * i + 3 < s.msgLen by omega, hread 0 (by omega), hread 1 (by omega),
      hread 2 (by omega), hread 3 (by omega)]
  · rw [schedule_getD_of_ge blk hge i.isLt]
    refine nextScheduleWord_of_words ?_ ?_ ?_ ?_ ?_ <;> rw [ht]
    exacts [hge, hw _ (by omega), hw _ (by omega), hw _ (by omega), hw _ (by omega)]

/-! ### One block through the compressor (rule R226) -/

variable (hb : s.state = .busy) (hm : s.moves = [])
include hb hm

theorem step_scheduled (hn : 1 ≤ s.nblk) {blk : List Byte} (h : HoldsBlock s blk) {w : Space Word} {i : Fin 64}
    (hw : HoldsWords w (schedule blk) i) :
    step (s.scheduled w i) = .next (s.scheduled (w.write i ((schedule blk).getD i 0#32)) (i + 1)) := by
  have hp := State.scheduled_phase (s := s) w i
  rw [step_of_phase (s := s.scheduled w i) hb hm hp rfl,
    exec_uSched_of_word (s := s.scheduled w i) hb hp hn (h.nextScheduleWord hw), State.storeScheduleWord_scheduled]

theorem step_rounded {ws : List Word} (hw : HoldsWords s.w ws 64) (v : WorkVars) (i : Fin 64) :
    step (s.rounded v i) = .next (s.rounded (roundStep v (kAt i) (ws.getD i 0#32)) (i + 1)) := by
  have hp := State.rounded_phase (s := s) v i
  have hread : (s.rounded v i).w.read (s.rounded v i).t = some (ws.getD i 0#32) := by
    rw [State.rounded_t]
    exact hw i i.isLt
  rw [step_of_phase (s := s.rounded v i) hb hm hp rfl, exec_uRound_of_operands (s := s.rounded v i) hb hp rfl hread,
    State.storeRound_rounded, State.rounded_t]

/-- `n` steps of U_SCHED write the first `n` words of the block's schedule. -/
theorem run_schedule (hn : 1 ≤ s.nblk) {blk : List Byte} (h : HoldsBlock s blk) {n : Nat} (hle : n ≤ 64) :
    ∃ w, Sys2Proof.core.run n (s.scheduled s.w 0) = .next (s.scheduled w n) ∧ HoldsWords w (schedule blk) n := by
  induction n with
  | zero => exact ⟨s.w, rfl, HoldsWords.zero _ _⟩
  | succ n ih =>
    obtain ⟨w, hrun, hw⟩ := ih (by omega)
    exact ⟨_, run_trans hrun (run_one (step_scheduled (i := ⟨n, hle⟩) hb hm hn h hw)), hw.write⟩

/-- `n` steps of U_ROUND perform the first `n` rounds. -/
theorem run_rounds {ws : List Word} (hw : HoldsWords s.w ws 64) (v : WorkVars) {n : Nat} (hle : n ≤ 64) :
    Sys2Proof.core.run n (s.rounded v 0) = .next (s.rounded (roundsUpTo ws v n) n) := by
  induction n with
  | zero => rfl
  | succ n ih =>
    have hstep := step_rounded hb hm hw (roundsUpTo ws v n) ⟨n, hle⟩
    rw [← roundsUpTo_succ ws v ⟨n, hle⟩] at hstep
    exact run_trans (ih (by omega)) (run_one hstep)

end

/-- Settles O43: 64 steps of U_SCHED, one of U_COPY, 64 of U_ROUND and one of U_FOLD. -/
theorem compressorRunsOneBlock : Obligations.CompressorRunsOneBlock := by
  intro s x blk hb hp ht hm hx hblk hlen hwithin hbytes
  obtain ⟨w, hsched, hw⟩ := run_schedule hb hm (by omega) ⟨hlen, hwithin, hbytes⟩ (Nat.le_refl 64)
  rw [State.scheduled_zero hp ht] at hsched
  let u := s.scheduled w 64
  have hcopy : step u = .next (u.rounded x.toVars 0) :=
    (step_of_phase (s := u) hb hm rfl rfl).trans (exec_uCopy_of_hs (s := u) hb rfl hx)
  have hrounds := run_rounds (s := u) hb hm hw x.toVars (Nat.le_refl 64)
  rw [roundsUpTo_all] at hrounds
  let v := u.rounded (rounds (schedule blk) x.toVars) 64
  have hfold : step v = .next (v.storeFold (compress x blk)) :=
    (step_of_phase (s := v) hb hm rfl rfl).trans (exec_uFold_of_operands (s := v) hb rfl hx rfl)
  exact ⟨v.storeFold (compress x blk),
    run_trans (m := 64) hsched (run_trans (m := 1) (run_one hcopy) (run_trans (m := 64) hrounds (run_one hfold))),
    rfl, rfl, rfl, rfl, rfl⟩

end Sys2Proof.Machine
end

section
/-! PROOFS. The formatter (rule R261 to rule R265): a digit as a number, the digits of a word, the digit string of the
eight words position by position, and U_FMT, which puts that string into HEX. -/

namespace Sys2Proof.Machine

/-! ### One digit (rule R262) -/

/-- The byte arithmetic of `hexchar` does not wrap. -/
theorem hexchar_toNat (n : BitVec 4) :
    (hexchar n).toNat = if n.toNat ≤ 9 then 0x30 + n.toNat else 0x61 + (n.toNat - 10) := by
  have hn := n.isLt
  have hle : n ≤ 9#4 ↔ n.toNat ≤ 9 := BitVec.le_def
  simp only [hexchar, hle]
  split
  · rw [BitVec.toNat_add, BitVec.toNat_setWidth, BitVec.toNat_ofNat]
    omega
  · rw [BitVec.toNat_add, BitVec.toNat_sub, BitVec.toNat_setWidth, BitVec.toNat_ofNat, BitVec.toNat_ofNat]
    omega

theorem hexchar_range (n : BitVec 4) :
    (0x30 ≤ (hexchar n).toNat ∧ (hexchar n).toNat ≤ 0x39) ∨ (0x61 ≤ (hexchar n).toNat ∧ (hexchar n).toNat ≤ 0x66) := by
  have hn := n.isLt
  rw [hexchar_toNat]
  split <;> omega

/-! ### The digits of one word (rule R263) -/

theorem hex8_eq_map (w : Word) : hex8 w = (List.range 8).map fun j => hexchar (w.extractLsb' (28 - 4 * j) 4) := rfl

@[simp] theorem hex8_length (w : Word) : (hex8 w).length = 8 := rfl

theorem hex8_getElem? (w : Word) {j : Nat} (h : j < 8) :
    (hex8 w)[j]? = some (hexchar (w.extractLsb' (28 - 4 * j) 4)) := by
  simp [hex8_eq_map, h]

theorem nibble_toNat (w : Word) (k : Nat) : (w.extractLsb' k 4).toNat = w.toNat / 2 ^ k % 16 := by
  rw [BitVec.extractLsb'_toNat, Nat.shiftRight_eq_div_pow]

/-! ### The digit string of the eight words (rule R265) -/

/-- Where each element gives `n` entries, the entries of element `k` begin at `n * k`. -/
theorem flatMap_getElem?_of_length {α β : Type} {f : α → List β} {n : Nat} (hf : ∀ a, (f a).length = n) {a : α}
    {j : Nat} (hj : j < n) (l : List α) {k : Nat} (hk : l[k]? = some a) :
    (l.flatMap f)[n * k + j]? = (f a)[j]? := by
  induction l generalizing k with
  | nil => cases hk
  | cons b l ih =>
    rw [List.flatMap_cons]
    cases k with
    | zero =>
      obtain rfl : b = a := Option.some.inj hk
      rw [Nat.mul_zero, Nat.zero_add, List.getElem?_append_left (by rwa [hf])]
    | succ k =>
      have hidx : n * (k + 1) + j = (f b).length + (n * k + j) := by
        rw [hf, Nat.mul_succ]
        omega
      rw [hidx, List.getElem?_append_right (Nat.le_add_right _ _), Nat.add_sub_cancel_left, ih hk]

/-- Character `8k + j` is digit `j` of word `k`, most significant first. -/
theorem format_getElem? {x : HashWords} {k j : Nat} {v : Word} (hv : x.toList[k]? = some v) (hj : j < 8) :
    (format x)[8 * k + j]? = some (hexchar (v.extractLsb' (28 - 4 * j) 4)) := by
  rw [format, flatMap_getElem?_of_length hex8_length hj _ hv, hex8_getElem? v hj]

theorem format_digit_toNat {x : HashWords} {k j : Nat} {v : Word} (hv : x.toList[k]? = some v) (hj : j < 8) :
    ∃ b, (format x)[8 * k + j]? = some b ∧
      b.toNat = (let nib := v.toNat / 2 ^ (28 - 4 * j) % 16
                 if nib ≤ 9 then 0x30 + nib else 0x61 + (nib - 10)) := by
  refine ⟨_, format_getElem? hv hj, ?_⟩
  rw [hexchar_toNat, nibble_toNat]

theorem exists_hexchar_of_mem_format {x : HashWords} {b : Byte} (h : b ∈ format x) : ∃ n, b = hexchar n := by
  obtain ⟨w, _, hb⟩ := List.mem_flatMap.mp h
  rw [hex8_eq_map] at hb
  obtain ⟨j, _, rfl⟩ := List.mem_map.mp hb
  exact ⟨_, rfl⟩

/-! ### What an enabled U_FMT answers (rule R261, rule R264) -/

theorem exec_uFmt_of_hs {s : State} (hb : s.state = .busy) (hp : s.phase = 7#4) {x : HashWords} (hx : s.hs = some x) :
    exec .uFmt s = .next (s.storeDigest x) := by
  rw [exec_uFmt_of_enabled hb hp, (readHs_eq_ok s x).mpr hx]
  rfl

theorem State.storeDigest_hex_read (s : State) (x : HashWords) (i : Nat) :
    (s.storeDigest x).hex.read i = (format x)[i]? := by
  rw [State.storeDigest_hex, Space.read_fromIndex, if_pos (Nat.zero_le i), Nat.sub_zero]

/-! ### The statements about the formatter -/

/-- Settles O44: HEX holds the digest string, character by character, and nothing past it. -/
theorem formatterRendersTheDigest : Obligations.FormatterRendersTheDigest := by
  refine ⟨selectedBy_of_encode rfl rfl, fun s x hb hp hx => ⟨s.storeDigest x, exec_uFmt_of_hs hb hp hx, ?_, ?_, rfl⟩⟩
  · intro k j v hv hj
    rw [State.storeDigest_hex_read]
    exact format_digit_toNat hv hj
  · intro i hi
    rw [State.storeDigest_hex_read]
    exact List.getElem?_eq_none (by rwa [format_length])

/-- Settles O45: each character is the digit of a nibble, and each word gives eight of them. -/
theorem digestStringIs64LowercaseHex : Obligations.DigestStringIs64LowercaseHex := by
  refine fun x => ⟨format_length x, fun b hb => ?_, fun _ _ _ => format_digit_toNat⟩
  obtain ⟨n, rfl⟩ := exists_hexchar_of_mem_format hb
  exact hexchar_range n

end Sys2Proof.Machine
end

section
/-! PROOFS. The host's commands (rule R280 to rule R294): which STATEs accept each of them, and what it
answers there. -/

namespace Sys2Proof.Machine

/-! ### The frame of a command (rule R293, rule R294) -/

/-- Every command runs its body in the frame of rule R293. -/
theorem exec_eq_hostCommand {i : Instr} (hi : i.isCommand = true) :
    ∃ body, ∀ s, exec i s = hostCommand i s body := by
  cases i with
  | start | push | run | rdword | rdchar | rdregErrpos | rdregByteLen => exact ⟨_, fun _ => rfl⟩
  | rdregStatus => exact ⟨fun s => .ok (s.respond .ok s.status), fun _ => rfl⟩
  | rdregCuCount => exact ⟨fun s => .ok (s.respond .ok s.cuCount), fun _ => rfl⟩
  | uEnc | uPad | uSched | uCopy | uRound | uFold | uFmt => cases hi

/-- A command that STATE does not accept answers BAD_STATE and changes nothing else. -/
theorem exec_of_rejected {i : Instr} {s : State} (hi : i.isCommand = true) (ha : accepted i s.state = false) :
    exec i s = .next (s.respondStatus .badState) := by
  obtain ⟨body, hexec⟩ := exec_eq_hostCommand hi
  rw [hexec, hostCommand_of_rejected body ha]

/-- A read that is accepted and does not stop answers OK. -/
theorem hostCommand_read_of_accepted {α : Type} {i : Instr} {s t : State} {r : State → Except Fault α}
    {f : State → α → Word} (ha : accepted i s.state = true)
    (h : hostCommand i s (fun s => r s >>= fun x => .ok (s.respond .ok (f s x))) = .next t) :
    ∃ d, t.lastResponse = some ⟨.ok, d⟩ := by
  rw [hostCommand_of_accepted _ ha, finish_eq_next] at h
  obtain ⟨x, _, hx⟩ := (bind_eq_ok _ _ _).mp h
  obtain rfl : s.respond .ok (f s x) = t := by simpa using hx
  exact ⟨_, lastResponse_respond _ _ _⟩

/-- The same for a register, whose read cannot stop. -/
theorem hostCommand_register_of_accepted {i : Instr} {s t : State} {f : State → Word} (ha : accepted i s.state = true)
    (h : hostCommand i s (fun s => .ok (s.respond .ok (f s))) = .next t) : ∃ d, t.lastResponse = some ⟨.ok, d⟩ :=
  hostCommand_read_of_accepted (r := fun _ => .ok ()) (f := fun s _ => f s) ha h

/-- A command that STATE accepts answers OK; only a PUSH can answer OVERFLOW instead. -/
theorem lastResponse_of_accepted {i : Instr} {s t : State} (hi : i.isCommand = true)
    (ha : accepted i s.state = true) (h : exec i s = .next t) :
    ∃ d, t.lastResponse = some ⟨.ok, d⟩ ∨ (t.lastResponse = some ⟨.overflow, d⟩ ∧ ∃ u, i = .push u) := by
  cases i with
  | start =>
    rcases exec_start_next h with ⟨hb, _⟩ | ⟨_, rfl⟩
    · simp [accepted, hb] at ha
    · exact ⟨_, .inl (lastResponse_respondStatus _ _)⟩
  | push u =>
    rcases exec_push_next h with ⟨hl, _⟩ | ⟨_, _, rfl⟩ | ⟨_, _, rfl⟩
    · exact absurd (by simpa [accepted] using ha) hl
    · exact ⟨_, .inr ⟨lastResponse_respondStatus _ _, u, rfl⟩⟩
    · exact ⟨_, .inl (lastResponse_respondStatus _ _)⟩
  | run =>
    rcases exec_run_next h with ⟨hl, _⟩ | ⟨_, rfl⟩
    · exact absurd (by simpa [accepted] using ha) hl
    · exact ⟨_, .inl (lastResponse_respondStatus _ _)⟩
  | rdword k => exact (hostCommand_read_of_accepted (r := readHs) (f := fun _ x => x.word k) ha h).imp fun _ => .inl
  | rdchar j =>
    exact (hostCommand_read_of_accepted (r := (readHex · j.toNat)) (f := fun _ b => b.setWidth 32) ha h).imp
      fun _ => .inl
  | rdregStatus => exact (hostCommand_register_of_accepted (f := State.status) ha h).imp fun _ => .inl
  | rdregCuCount => exact (hostCommand_register_of_accepted (f := State.cuCount) ha h).imp fun _ => .inl
  | rdregErrpos => exact (hostCommand_register_of_accepted (f := State.errPos) ha h).imp fun _ => .inl
  | rdregByteLen => exact (hostCommand_register_of_accepted (f := State.byteLen) ha h).imp fun _ => .inl
  | uEnc | uPad | uSched | uCopy | uRound | uFold | uFmt => cases hi

/-- What a command's row of the acceptance table says of it, once the row is known to list the STATEs that accept it. -/
theorem acceptance_of_row {i : Instr} {sts : List StateCode} (s : State) (hi : i.isCommand = true)
    (hrow : ∀ st, accepted i st = true ↔ st ∈ sts) :
    (s.state ∉ sts → exec i s = .next (s.respondStatus .badState)) ∧
    (s.state ∈ sts → ∀ t, exec i s = .next t →
      ∃ d, t.lastResponse = some ⟨.ok, d⟩ ∨ (t.lastResponse = some ⟨.overflow, d⟩ ∧ ∃ u, i = .push u)) := by
  rw [← hrow]
  exact ⟨fun ha => exec_of_rejected hi (Bool.eq_false_of_not_eq_true ha),
    fun ha t => lastResponse_of_accepted hi ha⟩

/-- Settles O16: the rows of the table list the STATEs that accept each command. -/
theorem acceptanceTable : Obligations.AcceptanceTable := by
  intro i s hi
  cases i with
  | start | rdregStatus | rdregCuCount | rdregErrpos | rdregByteLen | run | push | rdword | rdchar =>
    exact acceptance_of_row s hi fun st => by cases st <;> simp [accepted]
  | uEnc | uPad | uSched | uCopy | uRound | uFold | uFmt => cases hi

/-! ### START, PUSH and RUN where they are accepted -/

theorem State.status_of_load {s : State} (hl : s.state = .load) (he : s.err = .none) : s.status = 0x00000001#32 := by
  rw [State.status, hl, he]
  rfl

theorem State.beginRun_status {s : State} (he : s.err = .none) : s.beginRun.status = 0x00000002#32 := by
  rw [State.status, State.beginRun_state, State.beginRun_err, he]
  rfl

theorem State.raiseOverflow_status (s : State) (i : Word) : (s.raiseError .overflow i).status = 0x00000024#32 := by
  rw [State.status, State.raiseError_state, State.raiseError_err]
  rfl

section
variable {s : State} (hl : s.state = .load)
include hl

theorem exec_push_of_room (u : CodeUnit) (hroom : s.cuCount.toNat ≠ s.cfg.maxCu) :
    exec (.push u) s = .next ((s.storeCodeUnit u).respondStatus .ok) := by
  rw [exec, execPush, hostCommand_of_accepted _ (by simp [accepted, hl]), if_neg hroom, finish]

theorem exec_push_of_full (u : CodeUnit) (hfull : s.cuCount.toNat = s.cfg.maxCu) :
    exec (.push u) s = .next ((s.raiseError .overflow s.cuCount).respond .overflow 0x00000024#32) := by
  rw [exec, execPush, hostCommand_of_accepted _ (by simp [accepted, hl]), if_pos hfull, finish, State.respondStatus,
    State.raiseOverflow_status]

theorem exec_run_of_load : exec .run s = .next (s.beginRun.respondStatus .ok) := by
  rw [exec, execRun, hostCommand_of_accepted _ (by simp [accepted, hl]), finish]

/-- With ERR NONE, as it is in LOAD, a PUSH with room answers STATUS 1. -/
theorem exec_push_of_room_status (he : s.err = .none) (u : CodeUnit) (hroom : s.cuCount.toNat ≠ s.cfg.maxCu) :
    exec (.push u) s = .next ((s.storeCodeUnit u).respond .ok 0x00000001#32) := by
  rw [exec_push_of_room hl u hroom, State.respondStatus, State.status_of_load (s := s.storeCodeUnit u) hl he]

/-- With ERR NONE, as it is in LOAD, RUN answers STATUS 2. -/
theorem exec_run_of_load_status (he : s.err = .none) :
    exec .run s = .next (s.beginRun.respond .ok 0x00000002#32) := by
  rw [exec_run_of_load hl, State.respondStatus, State.beginRun_status he]

end

/-- START answers STATUS 1 outside BUSY. -/
theorem exec_start_of_not_busy_status {s : State} (h : s.state ≠ .busy) :
    exec .start s = .next (s.beginCall.respond .ok 0x00000001#32) := by
  rw [exec_start_of_not_busy h, State.respondStatus, State.beginCall_status]

/-! ### The reads where they are accepted -/

theorem HashWords.toList_getElem? (x : HashWords) (k : BitVec 3) : x.toList[k.toNat]? = some (x.word k) := by
  have hk : ∀ k : BitVec 3, k = 0#3 ∨ k = 1#3 ∨ k = 2#3 ∨ k = 3#3 ∨ k = 4#3 ∨ k = 5#3 ∨ k = 6#3 ∨ k = 7#3 := by decide
  rcases hk k with rfl | rfl | rfl | rfl | rfl | rfl | rfl | rfl <;> rfl

/-- A register that one STATE alone makes readable is answered there, and BAD_STATE elsewhere. -/
theorem hostCommand_register_in {i : Instr} {s : State} {st : StateCode} {f : State → Word}
    (h : ∀ s : State, accepted i s.state = (s.state == st)) :
    hostCommand i s (fun s => .ok (s.respond .ok (f s))) =
      .next { s with responses := s.responses ++ [if s.state = st then ⟨.ok, f s⟩ else ⟨.badState, s.status⟩] } := by
  by_cases hs : s.state = st
  · rw [hostCommand_of_accepted _ (by rw [h, beq_iff_eq, hs]), if_pos hs]
    rfl
  · rw [hostCommand_of_rejected _ (by rw [h, beq_eq_false_iff_ne]; exact hs), if_neg hs]
    rfl

/-! ### The statements about the commands -/

/-- Settles O10: the move is taken off, and the host's step on a word that decodes is `exec`. -/
theorem stepRunsTheDecodedCommand : Obligations.StepRunsTheDecodedCommand := by
  intro s w rest i hm hd
  rw [step, takeMove_cons hm]
  exact hostStep_of_decode hd _

/-- Settles O17: outside BUSY the answer is `beginCall`'s state. -/
theorem startBeginsACall : Obligations.StartBeginsACall :=
  ⟨rfl, fun s => (acceptanceTable .start s rfl).1, fun _ => exec_start_of_not_busy_status⟩

/-- Settles O18: the one entry of CU that `storeCodeUnit` writes is the one at CU_COUNT. -/
theorem pushAppendsTheCodeUnit : Obligations.PushAppendsTheCodeUnit := by
  refine fun u => ⟨rfl, fun s => (acceptanceTable (.push u) s rfl).1, fun s hl he hroom => ?_⟩
  exact ⟨_, exec_push_of_room_status hl he u hroom, Space.read_write_same _ _ _,
    fun j => Space.read_write_other _ _, rfl⟩

/-- Settles O19: the answer carries STATUS after the entry to ERROR. -/
theorem pushOnAFullBufferOverflows : Obligations.PushOnAFullBufferOverflows :=
  fun _ u hl hfull => exec_push_of_full hl u hfull

/-- Settles O20: in LOAD the answer is `beginRun`'s state. -/
theorem runStartsTheSequencer : Obligations.RunStartsTheSequencer :=
  ⟨rfl, fun s => (acceptanceTable .run s rfl).1, fun _ => exec_run_of_load_status⟩

/-- Settles O21: the word read is entry `k` of the hash state. -/
theorem rdwordAnswersTheHashWord : Obligations.RdwordAnswersTheHashWord := by
  refine fun k => ⟨rfl, fun s => (acceptanceTable (.rdword k) s rfl).1, fun s x v hd hx hv => ?_⟩
  obtain rfl : x.word k = v := Option.some.inj ((x.toList_getElem? k).symm.trans hv)
  rw [exec_rdword_of_done hd, (readHs_eq_ok s x).mpr hx]
  rfl

/-- Settles O22: the character is there, so the read does not stop. -/
theorem rdcharAnswersTheCharacter : Obligations.RdcharAnswersTheCharacter := by
  refine fun j => ⟨rfl, fun s => (acceptanceTable (.rdchar j) s rfl).1, fun s b hd hb => ?_⟩
  rw [exec_rdchar_of_done hd, (readHex_eq_ok s _ b).mpr hb]
  rfl

/-- Settles O23: STATUS and CU_COUNT are accepted in every STATE, ERRPOS and BYTE_LEN in one each. -/
theorem rdregAnswersTheRegister : Obligations.RdregAnswersTheRegister :=
  ⟨rfl, rfl, rfl, rfl, fun _ => ⟨rfl, rfl, hostCommand_register_in (f := State.errPos) fun _ => rfl,
    hostCommand_register_in (f := State.byteLen) fun _ => rfl⟩⟩

end Sys2Proof.Machine
end

section
/-! PROOFS. The commands of one hash call (rule R383): START, the PUSHes and RUN, each taken off the moves to come and
answered; and a text of more than MAX_CU code units (rule R296). -/

namespace Sys2Proof.Machine

/-! ### The two fields the host adds to -/

/-- The state with other moves to come and other responses given. -/
def State.withHost (s : State) (ms : List Move) (rs : List Response) : State := { s with moves := ms, responses := rs }

/-- `n` answers of OK with STATUS 1, which START and each PUSH with room give. -/
def loadAnswers (n : Nat) : List Response := List.replicate n ⟨.ok, 0x00000001#32⟩

/-- The moves that PUSH a text. -/
def pushMoves (c : List CodeUnit) : List Move := c.map fun u => .command (0x2000#16 ++ u)

theorem callMoves_eq (c : List CodeUnit) :
    callMoves c = .command 0x10000000#32 :: (pushMoves c ++ [.command 0x30000000#32]) := rfl

theorem pushMoves_append (c d : List CodeUnit) : pushMoves (c ++ d) = pushMoves c ++ pushMoves d := List.map_append

theorem append_loadAnswers (rs : List Response) (n : Nat) :
    rs ++ loadAnswers 1 ++ loadAnswers n = rs ++ loadAnswers (n + 1) := List.append_assoc rs _ _

theorem decode_startWord : decode (.command 0x10000000#32) = .ok .start := decode_encode .start

theorem decode_pushWord (u : CodeUnit) : decode (.command (0x2000#16 ++ u)) = .ok (.push u) := decode_encode (.push u)

theorem decode_runWord : decode (.command 0x30000000#32) = .ok .run := decode_encode .run

/-- The first step of a run leaves one step less to go. -/
theorem run_succ {M : Host.Core} {s t : M.State} (n : Nat) (h : M.step s = .next t) : M.run (n + 1) s = M.run n t := by
  rw [Host.Core.run, h]

section
variable {s : State} (ms : List Move) (rs : List Response)

theorem step_command {i : Instr} {w : Word} (hd : decode (.command w) = .ok i) :
    step (s.withHost (.command w :: ms) rs) = exec i (s.withHost ms rs) :=
  stepRunsTheDecodedCommand _ w ms i rfl hd

/-! ### START, one PUSH and RUN as moves -/

theorem step_start (h : s.state ≠ .busy) :
    step (s.withHost (.command 0x10000000#32 :: ms) rs) = .next (s.beginCall.withHost ms (rs ++ loadAnswers 1)) := by
  rw [step_command ms rs decode_startWord, exec_start_of_not_busy_status (s := s.withHost ms rs) h]
  rfl

theorem step_run (hl : s.state = .load) (he : s.err = .none) :
    step (s.withHost (.command 0x30000000#32 :: ms) rs) =
      .next (s.beginRun.withHost ms (rs ++ [⟨.ok, 0x00000002#32⟩])) := by
  rw [step_command ms rs decode_runWord, exec_run_of_load_status (s := s.withHost ms rs) hl he]
  rfl

theorem step_push_of_room (hl : s.state = .load) (he : s.err = .none) (hroom : s.cuCount.toNat ≠ s.cfg.maxCu)
    (u : CodeUnit) :
    step (s.withHost (.command (0x2000#16 ++ u) :: ms) rs) =
      .next ((s.storeCodeUnit u).withHost ms (rs ++ loadAnswers 1)) := by
  rw [step_command ms rs (decode_pushWord u), exec_push_of_room_status (s := s.withHost ms rs) hl he u hroom]
  rfl

theorem step_push_of_full (hl : s.state = .load) (hfull : s.cuCount.toNat = s.cfg.maxCu) (u : CodeUnit) :
    step (s.withHost (.command (0x2000#16 ++ u) :: ms) rs) =
      .next ((s.raiseError .overflow s.cuCount).withHost ms (rs ++ [⟨.overflow, 0x00000024#32⟩])) := by
  rw [step_command ms rs (decode_pushWord u), exec_push_of_full (s := s.withHost ms rs) hl u hfull]
  rfl

end

/-! ### The PUSHes of a text -/

/-- The state with a text stored from CU_COUNT on (rule R283). -/
def State.pushed (s : State) (c : List CodeUnit) : State :=
  { s with cu := s.cu.writeAll s.cuCount.toNat c, cuCount := s.cuCount + BitVec.ofNat 32 c.length }

theorem State.pushed_nil (s : State) : s.pushed [] = s := by
  simp [State.pushed, Space.writeAll]

theorem State.storeCodeUnit_pushed {s : State} (h : s.cuCount.toNat + 1 < 2 ^ 32) (u : CodeUnit) (c : List CodeUnit) :
    (s.storeCodeUnit u).pushed c = s.pushed (u :: c) := by
  have hcount : s.cuCount + 1#32 + BitVec.ofNat 32 c.length = s.cuCount + BitVec.ofNat 32 (c.length + 1) := by
    rw [BitVec.add_assoc, Nat.add_comm c.length, BitVec.ofNat_add]
  rw [State.pushed, State.storeCodeUnit_cuCount_toNat u h, State.storeCodeUnit_cuCount, hcount]
  rfl

theorem State.pushed_cuCount_toNat {s : State} {c : List CodeUnit} (h : s.cuCount.toNat + c.length < 2 ^ 32) :
    (s.pushed c).cuCount.toNat = s.cuCount.toNat + c.length := by
  simp only [State.pushed, BitVec.toNat_add, BitVec.toNat_ofNat]
  omega

/-- The PUSHes of a text that fits store it, and each answers OK. -/
theorem run_pushMoves {s : State} (hl : s.state = .load) (he : s.err = .none) (hmax : s.cfg.maxCu ≤ 2 ^ 30)
    {c : List CodeUnit} (hfit : s.cuCount.toNat + c.length ≤ s.cfg.maxCu) (ms : List Move) (rs : List Response) :
    Sys2Proof.core.run c.length (s.withHost (pushMoves c ++ ms) rs) =
      .next ((s.pushed c).withHost ms (rs ++ loadAnswers c.length)) := by
  induction c generalizing s rs with
  | nil =>
    rw [s.pushed_nil, loadAnswers, List.length_nil, List.replicate_zero, List.append_nil]
    rfl
  | cons u c ih =>
    rw [List.length_cons] at hfit
    have hcount : (s.storeCodeUnit u).cuCount.toNat + c.length ≤ s.cfg.maxCu := by
      rw [State.storeCodeUnit_cuCount_toNat u (by omega)]
      omega
    rw [← State.storeCodeUnit_pushed (by omega), List.length_cons, ← append_loadAnswers]
    exact (run_succ c.length (step_push_of_room _ rs hl he (by omega) u)).trans
      (ih (s := s.storeCodeUnit u) hl he hmax hcount _)

theorem State.beginCall_pushed_cuCount_toNat (s : State) {c : List CodeUnit} (h : c.length < 2 ^ 32) :
    (s.beginCall.pushed c).cuCount.toNat = c.length := by
  rw [State.pushed_cuCount_toNat (by simpa using h)]
  simp

/-- START and the PUSHes of a text that fits. -/
theorem run_start_pushMoves {s : State} (hcfg : s.cfg.Legal) (hb : s.state ≠ .busy) {c : List CodeUnit}
    (hfit : c.length ≤ s.cfg.maxCu) (ms : List Move) (rs : List Response) :
    Sys2Proof.core.run (c.length + 1) (s.withHost (.command 0x10000000#32 :: (pushMoves c ++ ms)) rs) =
      .next ((s.beginCall.pushed c).withHost ms (rs ++ loadAnswers (c.length + 1))) := by
  obtain ⟨_, hmax⟩ := hcfg
  rw [← append_loadAnswers]
  exact (run_succ c.length (step_start _ rs hb)).trans
    (run_pushMoves (s := s.beginCall) rfl rfl hmax (by simpa using hfit) ms _)

/-- The state that START, the PUSHes of a text and RUN leave: the encoder is about to begin. -/
def State.called (s : State) (c : List CodeUnit) : State := (s.beginCall.pushed c).beginRun

/-- The host's part of a call of a text that fits (rule R383, steps 1 to 3). -/
theorem run_callMoves {s : State} (hcfg : s.cfg.Legal) (hb : s.state ≠ .busy) {c : List CodeUnit}
    (hfit : c.length ≤ s.cfg.maxCu) (ms : List Move) (rs : List Response) :
    Sys2Proof.core.run (c.length + 2) (s.withHost (callMoves c ++ ms) rs) =
      .next ((s.called c).withHost ms (rs ++ loadAnswers (c.length + 1) ++ [⟨.ok, 0x00000002#32⟩])) := by
  have hmoves : callMoves c ++ ms =
      .command 0x10000000#32 :: (pushMoves c ++ (.command 0x30000000#32 :: ms)) := by
    rw [callMoves_eq, List.cons_append, List.append_assoc, List.singleton_append]
  rw [hmoves]
  exact run_trans (m := c.length + 1) (run_start_pushMoves hcfg hb hfit (.command 0x30000000#32 :: ms) rs)
    (run_one (step_run (s := s.beginCall.pushed c) ms _ rfl rfl))

/-! ### A text that is too long (rule R284, rule R296) -/

/-- A move of a command that ERROR rejects. -/
def Move.RejectedInError (m : Move) : Prop :=
  ∃ w i, m = .command w ∧ decode (.command w) = .ok i ∧ i.isCommand = true ∧ accepted i .error = false

theorem rejectedInError_of_mem_pushMoves {c : List CodeUnit} {m : Move} (h : m ∈ pushMoves c) : m.RejectedInError := by
  obtain ⟨u, _, rfl⟩ := List.mem_map.mp h
  exact ⟨_, .push u, rfl, decode_pushWord u, rfl, rfl⟩

theorem rejectedInError_run : (Move.command 0x30000000#32).RejectedInError :=
  ⟨_, .run, rfl, decode_runWord, rfl, rfl⟩

/-- Commands that ERROR rejects change nothing, and each answers BAD_STATE (rule R293). -/
theorem run_rejectedInError {s : State} (hs : s.state = .error) {ms : List Move} (hms : ∀ m ∈ ms, m.RejectedInError)
    (rs : List Response) :
    Sys2Proof.core.run ms.length (s.withHost ms rs) =
      .next (s.withHost [] (rs ++ List.replicate ms.length ⟨.badState, s.status⟩)) := by
  induction ms generalizing rs with
  | nil =>
    rw [List.length_nil, List.replicate_zero, List.append_nil]
    rfl
  | cons m ms ih =>
    rw [List.forall_mem_cons] at hms
    obtain ⟨⟨w, i, rfl, hd, hi, ha⟩, hms⟩ := hms
    have hstep : step (s.withHost (.command w :: ms) rs) = .next (s.withHost ms (rs ++ [⟨.badState, s.status⟩])) := by
      rw [step_command ms rs hd, exec_of_rejected (s := s.withHost ms rs) hi (hs ▸ ha)]
      rfl
    rw [List.length_cons, List.replicate_succ, List.append_cons]
    exact (run_succ ms.length hstep).trans (ih hms _)

/-- A call of a text that begins with MAX_CU code units and goes on: these are stored, the next PUSH overflows, and
ERROR rejects the rest. -/
theorem run_callMoves_of_too_long {s : State} (hcfg : s.cfg.Legal) (hb : s.state ≠ .busy) {fits : List CodeUnit}
    (hfits : fits.length = s.cfg.maxCu) (u : CodeUnit) (rest : List CodeUnit) (rs : List Response) :
    Sys2Proof.core.run (fits.length + rest.length + 3) (s.withHost (callMoves (fits ++ u :: rest)) rs) =
      .next (((s.beginCall.pushed fits).raiseError .overflow (s.beginCall.pushed fits).cuCount).withHost []
        (rs ++ loadAnswers (fits.length + 1) ++ [⟨.overflow, 0x00000024#32⟩] ++
          List.replicate (rest.length + 1) ⟨.badState, 0x00000024#32⟩)) := by
  let last := pushMoves rest ++ [.command 0x30000000#32]
  have hlast : last.length = rest.length + 1 := by simp [last, pushMoves]
  have hmoves : callMoves (fits ++ u :: rest) =
      .command 0x10000000#32 :: (pushMoves fits ++ (.command (0x2000#16 ++ u) :: last)) := by
    rw [callMoves_eq, pushMoves_append, List.append_assoc]
    rfl
  have hrejected : ∀ m ∈ last, m.RejectedInError := List.forall_mem_append.mpr
    ⟨fun _ => rejectedInError_of_mem_pushMoves, List.forall_mem_singleton.mpr rejectedInError_run⟩
  have hload := run_start_pushMoves hcfg hb (Nat.le_of_eq hfits) (.command (0x2000#16 ++ u) :: last) rs
  let loaded := s.beginCall.pushed fits
  have hcount : loaded.cuCount.toNat = s.cfg.maxCu := by
    obtain ⟨_, hmax⟩ := hcfg
    rw [s.beginCall_pushed_cuCount_toNat (by omega), hfits]
  have hover := step_push_of_full (s := loaded) last (rs ++ loadAnswers (fits.length + 1)) rfl hcount u
  have hreject := run_rejectedInError (s := loaded.raiseError .overflow loaded.cuCount) rfl hrejected
    (rs ++ loadAnswers (fits.length + 1) ++ [⟨.overflow, 0x00000024#32⟩])
  rw [hlast, loaded.raiseOverflow_status] at hreject
  rw [hmoves, show fits.length + rest.length + 3 = fits.length + 1 + (1 + (rest.length + 1)) by omega]
  exact run_trans hload (run_trans (run_one hover) hreject)

/-- Settles O59: the text is its first MAX_CU code units and at least one more (`run_callMoves_of_too_long`). -/
theorem tooLongATextOverflows : Obligations.TooLongATextOverflows := by
  intro s c hcfg hb hlong hm
  obtain ⟨fits, u, rest, rfl, hfits⟩ : ∃ fits u rest, c = fits ++ u :: rest ∧ fits.length = s.cfg.maxCu :=
    ⟨c.take s.cfg.maxCu, c.get ⟨s.cfg.maxCu, hlong⟩, c.drop (s.cfg.maxCu + 1), by simp,
      List.length_take_of_le (by omega)⟩
  have hrun := run_callMoves_of_too_long hcfg hb hfits u rest s.responses
  have hcount : (s.beginCall.pushed fits).cuCount.toNat = fits.length := by
    obtain ⟨_, hmax⟩ := hcfg
    exact s.beginCall_pushed_cuCount_toNat (by omega)
  have hlen : (fits ++ u :: rest).length = fits.length + rest.length + 1 := by simp; omega
  rw [← hm] at hrun
  rw [hlen, ← hfits]
  refine ⟨_, hrun, rfl, rfl, hcount, hcount, ?_⟩
  rw [show fits.length + rest.length + 1 - fits.length = rest.length + 1 by omega]
  rfl

end Sys2Proof.Machine
end

section
/-! PROOFS. The sequencer alone (rule R392): the encoder over a whole text, the padder, the compressor over every block
and the formatter, and that together they compute `hashText` in `callSteps` steps. -/

namespace Sys2Proof.Machine

/-! ### The groups of a text (rule R153, rule R164) -/

theorem surrogate_of_unitBytes_eq_none {u : CodeUnit} (h : unitBytes u = none) :
    0xD800 ≤ u.toNat ∧ u.toNat ≤ 0xDFFF := by
  by_contra hne
  by_cases h1 : u.toNat < 0x80
  · rw [unitBytes_of_lt_0x80 h1] at h; cases h
  by_cases h2 : u.toNat < 0x800
  · rw [unitBytes_of_lt_0x800 (by omega) h2] at h; cases h
  · rw [unitBytes_of_not_surrogate (by omega) (by omega)] at h; cases h

theorem unitBytes_of_high {u : CodeUnit} (h : isHighSurrogate u = true) : unitBytes u = none := by
  have := (isHighSurrogate_iff u).mp h
  exact unitBytes_of_surrogate (by omega) (by omega)

/-- A group of its own has at most three bytes. -/
theorem unitBytes_length_le {u : CodeUnit} {bs : List Byte} (h : unitBytes u = some bs) : bs.length ≤ 3 := by
  unfold unitBytes at h
  split_ifs at h <;> cases h <;> simp

/-- The code unit `u` before the text `rest` is an unpaired surrogate (rule R160 to rule R162). -/
def Unpaired (u : CodeUnit) (rest : List CodeUnit) : Prop :=
  unitBytes u = none ∧ ∀ v ∈ rest.head?, ¬(isHighSurrogate u = true ∧ isLowSurrogate v = true)

/-- Induction over a text group by group, as the encoder goes through it. -/
theorem group_induction {motive : List CodeUnit → Prop} (nil : motive [])
    (unit : ∀ u bs rest, unitBytes u = some bs → motive rest → motive (u :: rest))
    (pair : ∀ u v rest, isHighSurrogate u = true → isLowSurrogate v = true → motive rest → motive (u :: v :: rest))
    (unpaired : ∀ u rest, Unpaired u rest → motive (u :: rest)) (c : List CodeUnit) : motive c := by
  induction hn : c.length using Nat.strong_induction_on generalizing c with
  | _ n ih =>
    subst hn
    match c with
    | [] => exact nil
    | u :: rest =>
      cases hu : unitBytes u with
      | some bs => exact unit u bs rest hu (ih _ (by simp) rest rfl)
      | none =>
        by_cases hpair : ∀ v ∈ rest.head?, ¬(isHighSurrogate u = true ∧ isLowSurrogate v = true)
        · exact unpaired u rest ⟨hu, hpair⟩
        · match rest with
          | [] => simp at hpair
          | v :: rest =>
            obtain ⟨hhi, hlo⟩ : isHighSurrogate u = true ∧ isLowSurrogate v = true := by simpa using hpair
            exact pair u v rest hhi hlo (ih _ (by simp) rest rfl)

theorem encodeFrom_of_unpaired {u : CodeUnit} {rest : List CodeUnit} (h : Unpaired u rest) (i : Nat) :
    encodeFrom i (u :: rest) = .error i := by
  obtain ⟨hu, hpair⟩ := h
  cases rest with
  | nil => simp [encodeFrom, hu]
  | cons v rest =>
    have hpair : ¬(isHighSurrogate u = true ∧ isLowSurrogate v = true) := hpair v rfl
    simp only [encodeFrom, hu, Bool.and_eq_true, if_neg hpair]

theorem groupCount_of_unit {u : CodeUnit} {bs : List Byte} (h : unitBytes u = some bs) (rest : List CodeUnit) :
    groupCount (u :: rest) = 1 + groupCount rest := by
  cases rest <;> simp [groupCount, h]

theorem groupCount_of_pair {u v : CodeUnit} (hu : isHighSurrogate u = true) (hv : isLowSurrogate v = true)
    (rest : List CodeUnit) : groupCount (u :: v :: rest) = 1 + groupCount rest := by
  simp [groupCount, unitBytes_of_high hu, hu, hv]

theorem groupCount_of_unpaired {u : CodeUnit} {rest : List CodeUnit} (h : Unpaired u rest) :
    groupCount (u :: rest) = 0 := by
  obtain ⟨hu, hpair⟩ := h
  cases rest with
  | nil => simp [groupCount, hu]
  | cons v rest =>
    have hpair : ¬(isHighSurrogate u = true ∧ isLowSurrogate v = true) := hpair v rfl
    simp only [groupCount, hu, Bool.and_eq_true, if_neg hpair, Option.isSome_none, Bool.false_eq_true, if_false]

/-- The bytes of a group of at most `k` code units before those of the rest, at most three for each code unit. -/
theorem prependBytes_length_le {bs m : List Byte} {r : Except Nat (List Byte)} {k n : Nat}
    (h : prependBytes bs r = .ok m) (hbs : bs.length ≤ 3 * k) (hr : ∀ m', r = .ok m' → m'.length ≤ 3 * n) :
    m.length ≤ 3 * (n + k) := by
  cases r with
  | ok m' =>
    have := hr m' rfl
    cases h
    rw [List.length_append]
    omega
  | error p => cases h

/-- The bytes of a text, where it has any, are at most three for each code unit (rule R12). -/
theorem encodeFrom_length_le (c : List CodeUnit) : ∀ i m, encodeFrom i c = .ok m → m.length ≤ 3 * c.length := by
  induction c using group_induction with
  | nil =>
    rintro i m ⟨⟩
    exact Nat.le_refl 0
  | unit u bs rest hu ih =>
    intro i m h
    rw [encodeFrom_of_unit hu] at h
    exact prependBytes_length_le (k := 1) h (unitBytes_length_le hu) (ih _)
  | pair u v rest hu hv ih =>
    intro i m h
    rw [encodeFrom_of_pair hu hv] at h
    exact prependBytes_length_le (k := 2) h (by simp) (ih _)
  | unpaired u rest h =>
    intro i m hm
    rw [encodeFrom_of_unpaired h] at hm
    cases hm

/-! ### The encoder over a text (rule R151) -/

/-- From CI up to CU_COUNT, CU holds the text. -/
structure HoldsText (s : State) (text : List CodeUnit) : Prop where
  count : s.cuCount.toNat = s.ci + text.length
  units : ∀ k < text.length, s.cu.read (s.ci + k) = text[k]?

section
variable {s : State}

theorem HoldsText.emitGroup {c d : List CodeUnit} (h : HoldsText s (c ++ d)) (bs : List Byte) :
    HoldsText (s.emitGroup bs c.length) d where
  count := by
    rw [State.emitGroup_cuCount, State.emitGroup_ci, h.count, List.length_append, Nat.add_assoc]
  units k hk := by
    rw [State.emitGroup_cu, State.emitGroup_ci, Nat.add_assoc, h.units _ (by rw [List.length_append]; omega),
      List.getElem?_append_right (Nat.le_add_right _ _), Nat.add_sub_cancel_left]

theorem HoldsText.ci_lt {u : CodeUnit} {rest : List CodeUnit} (h : HoldsText s (u :: rest)) :
    s.ci < s.cuCount.toNat := by
  rw [h.count]
  simp

theorem HoldsText.read_head {u : CodeUnit} {rest : List CodeUnit} (h : HoldsText s (u :: rest)) :
    s.cu.read s.ci = some u := h.units 0 (by simp)

theorem HoldsText.read_second {u v : CodeUnit} {rest : List CodeUnit} (h : HoldsText s (u :: v :: rest)) :
    s.cu.read (s.ci + 1) = some v := h.units 1 (by simp)

theorem HoldsText.ci_succ_lt {u v : CodeUnit} {rest : List CodeUnit} (h : HoldsText s (u :: v :: rest)) :
    s.ci + 1 < s.cuCount.toNat := by
  rw [h.count]
  simp

/-- An unpaired surrogate at CI is MALFORMED, in each of its three cases (rule R160 to rule R162). -/
theorem HoldsText.encodeStep_of_unpaired {u : CodeUnit} {rest : List CodeUnit} (h : HoldsText s (u :: rest))
    (hu : Unpaired u rest) : encodeStep s = .ok s.raiseMalformed := by
  obtain ⟨hnone, hpair⟩ := hu
  obtain ⟨hlo, hhi⟩ := surrogate_of_unitBytes_eq_none hnone
  by_cases hlow : 0xDC00 ≤ u.toNat
  · exact encodeStep_of_unpairedLow h.ci_lt h.read_head hlow hhi
  · have hhigh : u.toNat ≤ 0xDBFF := by omega
    cases rest with
    | nil => exact encodeStep_of_trailingHigh h.ci_lt h.read_head hlo hhigh h.count.symm
    | cons v rest =>
      have hv : ¬(0xDC00 ≤ v.toNat ∧ v.toNat ≤ 0xDFFF) := fun hv =>
        hpair v rfl ⟨(isHighSurrogate_iff u).mpr ⟨hlo, hhigh⟩, (isLowSurrogate_iff v).mpr hv⟩
      exact encodeStep_of_unpairedHigh h.ci_succ_lt h.read_head hlo hhigh h.read_second (by omega)

/-- Two groups emitted one after the other are emitted as one. -/
theorem State.emitGroup_emitGroup (s : State) (bs cs : List Byte) (m n : Nat) :
    (s.emitGroup bs m).emitGroup cs n = s.emitGroup (bs ++ cs) (m + n) := by
  simp only [State.emitGroup, State.appendBytes, Space.writeAll_append, List.length_append, BitVec.ofNat_add,
    BitVec.add_assoc, Nat.add_assoc]

theorem State.emitGroup_nil_zero (s : State) : s.emitGroup [] 0 = s := by
  simp [State.emitGroup, State.appendBytes, Space.writeAll]

/-- What the encoder leaves of the state `s` when its result on the `n` code units from CI on is the one given: the bytes
in MSG and the padder's turn, or ERROR at the first offending code unit. -/
def EncoderEnds (s t : State) (n : Nat) : Except Nat (List Byte) → Prop
  | .ok m => t = { s.emitGroup m n with phase := 2#4 }
  | .error p => ∃ bs k, k < n ∧ p = s.ci + k ∧ t = (s.emitGroup bs k).raiseMalformed

/-- A group before the rest of the text. -/
theorem EncoderEnds.prependBytes {t : State} {bs : List Byte} {k n : Nat} {r : Except Nat (List Byte)}
    (h : EncoderEnds (s.emitGroup bs k) t n r) : EncoderEnds s t (k + n) (prependBytes bs r) := by
  cases r with
  | ok m =>
    rw [EncoderEnds, State.emitGroup_emitGroup] at h
    exact h
  | error p =>
    obtain ⟨cs, j, hj, hp, rfl⟩ := h
    refine ⟨bs ++ cs, k + j, by omega, ?_, by rw [State.emitGroup_emitGroup]⟩
    rw [hp, State.emitGroup_ci, Nat.add_assoc]

theorem step_uEnc {t : State} (hb : s.state = .busy) (hp : s.phase = 1#4) (hm : s.moves = [])
    (h : encodeStep s = .ok t) : step s = .next t :=
  (step_of_phase hb hm hp rfl).trans (exec_uEnc_of_encodeStep hb hp h)

/-- The encoder goes through a text in one step a group and one more (rule R165). -/
theorem run_encoder (c : List CodeUnit) {s : State} (hb : s.state = .busy) (hp : s.phase = 1#4) (hm : s.moves = [])
    (h : HoldsText s c) :
    ∃ t, Sys2Proof.core.run (groupCount c + 1) s = .next t ∧ EncoderEnds s t c.length (encodeFrom s.ci c) := by
  induction c using group_induction generalizing s with
  | nil =>
    have hstep : step s = .next { s.emitGroup [] 0 with phase := 2#4 } :=
      step_uEnc hb hp hm ((if_pos h.count.symm).trans (by rw [State.emitGroup_nil_zero]))
    exact ⟨_, run_one hstep, rfl⟩
  | unit u bs rest hu ih =>
    have hstep := step_uEnc hb hp hm (encodeStep_of_unit h.ci_lt h.read_head hu)
    obtain ⟨t, hrun, ht⟩ := ih (s := s.emitGroup bs 1) hb hp hm (HoldsText.emitGroup (c := [u]) h bs)
    rw [groupCount_of_unit hu, encodeFrom_of_unit hu, List.length_cons, Nat.add_comm rest.length, Nat.add_assoc]
    exact ⟨t, run_trans (run_one hstep) hrun, ht.prependBytes⟩
  | pair u v rest hu hv ih =>
    obtain ⟨hulo, huhi⟩ := (isHighSurrogate_iff u).mp hu
    obtain ⟨hvlo, hvhi⟩ := (isLowSurrogate_iff v).mp hv
    have hstep := step_uEnc hb hp hm
      (encodeStep_of_pair h.ci_succ_lt h.read_head h.read_second hulo huhi hvlo hvhi)
    obtain ⟨t, hrun, ht⟩ := ih (s := s.emitGroup (emit4 (pairCodePoint u v)) 2) hb hp hm
      (HoldsText.emitGroup (c := [u, v]) h _)
    rw [groupCount_of_pair hu hv, encodeFrom_of_pair hu hv, Nat.add_assoc,
      show (u :: v :: rest).length = 2 + rest.length from Nat.add_comm _ 2]
    exact ⟨t, run_trans (run_one hstep) hrun, ht.prependBytes⟩
  | unpaired u rest hu =>
    have hstep := step_uEnc hb hp hm (h.encodeStep_of_unpaired hu)
    rw [groupCount_of_unpaired hu, encodeFrom_of_unpaired hu]
    exact ⟨_, run_one hstep, [], 0, by simp, rfl, by rw [State.emitGroup_nil_zero]⟩

end

/-! ### The compressor over the blocks of a message (rule R225, rule R226) -/

/-- The hash state after the first `k` blocks of a padded message. -/
def compressBlocks (m : List Byte) (k : Nat) : HashWords :=
  (List.range k).foldl (fun x i => compress x (blockAt m i)) iv

theorem compressBlocks_succ (m : List Byte) (k : Nat) :
    compressBlocks m (k + 1) = compress (compressBlocks m k) (blockAt m k) := by
  rw [compressBlocks, List.range_succ, List.foldl_append]
  rfl

theorem blockAt_length {m : List Byte} {k : Nat} (h : 64 * k + 64 ≤ m.length) : (blockAt m k).length = 64 := by
  rw [blockAt, List.length_take, List.length_drop]
  omega

theorem blockAt_getElem? (m : List Byte) (k : Nat) {j : Nat} (h : j < 64) : (blockAt m k)[j]? = m[64 * k + j]? := by
  rw [blockAt, List.getElem?_take_of_lt h, List.getElem?_drop]

/-- MSG holds the padded message `m`, which is NBLK blocks, at least one. -/
structure HoldsMessage (s : State) (m : List Byte) : Prop where
  msgLen : s.msgLen = m.length
  blocks : m.length = 64 * s.nblk
  pos : 1 ≤ s.nblk
  bytes : ∀ j < m.length, s.msg.read j = m[j]?

/-- The state `t` is `s` once the compressor has folded in the first `k` blocks of `m`. -/
structure CompressedTo (s t : State) (m : List Byte) (k : Nat) : Prop where
  hs : t.hs = some (compressBlocks m k)
  blk : t.blk = k
  index : t.t = 0
  phase : t.phase = if k = s.nblk then 7#4 else 3#4
  frame : t = { s with hs := t.hs, vars := t.vars, w := t.w, t := t.t, blk := t.blk, phase := t.phase }

section
variable {s t : State} {m : List Byte} {k : Nat} (h : CompressedTo s t m k)
include h

theorem CompressedTo.state : t.state = s.state := (congrArg State.state h.frame).trans rfl
theorem CompressedTo.err : t.err = s.err := (congrArg State.err h.frame).trans rfl
theorem CompressedTo.moves : t.moves = s.moves := (congrArg State.moves h.frame).trans rfl
theorem CompressedTo.msg : t.msg = s.msg := (congrArg State.msg h.frame).trans rfl
theorem CompressedTo.msgLen : t.msgLen = s.msgLen := (congrArg State.msgLen h.frame).trans rfl
theorem CompressedTo.byteLen : t.byteLen = s.byteLen := (congrArg State.byteLen h.frame).trans rfl
theorem CompressedTo.nblk : t.nblk = s.nblk := (congrArg State.nblk h.frame).trans rfl

end

section
variable {s : State} (hb : s.state = .busy) (hm : s.moves = []) {m : List Byte} (h : HoldsMessage s m)
include hb hm h

/-- One more block is 130 steps (rule R215). -/
theorem CompressedTo.run_block {t : State} {k : Nat} (hk : k < s.nblk) (ht : CompressedTo s t m k) :
    ∃ u, Sys2Proof.core.run 130 t = .next u ∧ CompressedTo s u m (k + 1) := by
  have hfit : 64 * k + 64 ≤ m.length := by
    rw [h.blocks]
    omega
  have hphase : t.phase = 3#4 := ht.phase.trans (if_neg (by omega))
  obtain ⟨u, hrun, hhs, hblk, hindex, hnext, hframe⟩ := compressorRunsOneBlock t _ (blockAt m k) (ht.state.trans hb)
    hphase ht.index (ht.moves.trans hm) ht.hs (by rw [ht.blk, ht.nblk]; exact hk) (blockAt_length hfit)
    (by rw [ht.blk, ht.msgLen, h.msgLen]; exact hfit)
    fun j hj => by rw [blockAt_getElem? m k hj, ht.blk, ht.msg, h.bytes _ (by omega)]
  refine ⟨u, hrun, hhs.trans (by rw [compressBlocks_succ]), by rw [hblk, ht.blk], hindex, ?_, ?_⟩
  · rw [hnext, ht.blk, ht.nblk]
  · rw [hframe, ht.frame]

/-- The blocks one after the other. -/
theorem run_blocks (hp : s.phase = 3#4) (ht : s.t = 0) (hblk : s.blk = 0) (hhs : s.hs = some iv) {k : Nat}
    (hk : k ≤ s.nblk) : ∃ t, Sys2Proof.core.run (130 * k) s = .next t ∧ CompressedTo s t m k := by
  induction k with
  | zero =>
    have hpos := h.pos
    exact ⟨s, rfl, hhs, hblk, ht, hp.trans (if_neg (by omega)).symm, rfl⟩
  | succ k ih =>
    obtain ⟨t, hrun, ht⟩ := ih (by omega)
    obtain ⟨u, hrun', hu⟩ := ht.run_block hb hm h hk
    exact ⟨u, run_trans hrun hrun', hu⟩

end

/-! ### The whole call (rule R295, rule R392) -/

/-- What U_PAD leaves in MSG is the padded message. -/
theorem holdsMessage_padStep {s : State} {m : List Byte} (hlen : s.msgLen = m.length)
    (hmsg : ∀ j < m.length, s.msg.read j = m[j]?) : HoldsMessage (padStep s) (pad m) where
  msgLen := by rw [padStep_msgLen, hlen, pad_length]
  blocks := by rw [padStep_nblk, hlen, pad_length, ← paddedLength_eq_blocks]
  pos := by
    have := paddedLength_ge s.msgLen
    have := paddedLength_eq_blocks s.msgLen
    rw [padStep_nblk]
    omega
  bytes _ := by
    rw [padStep_msg, hlen]
    exact padMessage_read_eq_pad hmsg

/-- The padder, the compressor and the formatter turn the message in MSG into its digest. -/
theorem run_digest {s : State} (hb : s.state = .busy) (hp : s.phase = 2#4) (hm : s.moves = []) (hhs : s.hs = some iv)
    {m : List Byte} (hlen : s.msgLen = m.length) (hmsg : ∀ j < m.length, s.msg.read j = m[j]?) :
    ∃ t, Sys2Proof.core.run (1 + 130 * (paddedLength m.length / 64) + 1) s = .next t ∧ t.state = .done ∧
      t.err = s.err ∧ t.byteLen = s.byteLen ∧ t.hs = some (compressAll (pad m)) ∧
      ∀ j, t.hex.read j = (format (compressAll (pad m)))[j]? := by
  have hpad : step s = .next (padStep s) := (step_of_phase hb hm hp rfl).trans (exec_uPad_of_enabled hb hp)
  have hnblk : (padStep s).nblk = paddedLength m.length / 64 := by rw [padStep_nblk, hlen]
  obtain ⟨t, hblocks, ht⟩ := run_blocks ((padStep_state s).trans hb) ((padStep_moves s).trans hm)
    (holdsMessage_padStep hlen hmsg) (padStep_phase s) (padStep_t s) (padStep_blk s) ((padStep_hs s).trans hhs)
    (Nat.le_refl _)
  have hall : compressBlocks (pad m) (padStep s).nblk = compressAll (pad m) := by
    rw [hnblk, compressAll, pad_length, compressBlocks]
  have hbusy : t.state = .busy := ht.state.trans ((padStep_state s).trans hb)
  have hmoves : t.moves = [] := ht.moves.trans ((padStep_moves s).trans hm)
  have hphase : t.phase = 7#4 := ht.phase.trans (if_pos rfl)
  have hfmt : step t = .next (t.storeDigest (compressAll (pad m))) :=
    (step_of_phase hbusy hmoves hphase rfl).trans (exec_uFmt_of_hs hbusy hphase (hall ▸ ht.hs))
  rw [hnblk] at hblocks
  exact ⟨_, run_trans (run_trans (run_one hpad) hblocks) (run_one hfmt), rfl, ht.err.trans (padStep_err s),
    ht.byteLen.trans (padStep_byteLen s), hall ▸ ht.hs, State.storeDigest_hex_read t _⟩

/-- After START, the PUSHes and RUN the encoder has the whole text before it. -/
theorem holdsText_called (s : State) {c : List CodeUnit} (hc : c.length < 2 ^ 32) : HoldsText (s.called c) c where
  count := (s.beginCall_pushed_cuCount_toNat hc).trans (Nat.zero_add _).symm
  units _ := Space.read_writeAll_inside (i := 0) c s.cu

/-- From RUN on the sequencer alone ends the call of a text with its result, in the steps that rule R392 counts. -/
theorem run_callSteps (s : State) {c : List CodeUnit} (hc : c.length ≤ 2 ^ 30) :
    ∃ t, Sys2Proof.core.run (callSteps c) ((s.called c).withHost [] []) = .next t ∧ callResult c t := by
  let p := (s.called c).withHost [] []
  have hlen : p.msgLen = 0 := rfl
  obtain ⟨count, units⟩ := holdsText_called s (c := c) (by omega)
  obtain ⟨t, hrun, ht⟩ := run_encoder c (s := p) rfl rfl rfl ⟨count, units⟩
  cases hr : encodeText c with
  | ok m =>
    rw [show encodeFrom p.ci c = .ok m from hr] at ht
    obtain rfl : t = { p.emitGroup m c.length with phase := 2#4 } := ht
    have hfit := encodeFrom_length_le c 0 m hr
    obtain ⟨u, hrun', hdone, herr, hbyteLen, hhash, hhex⟩ := run_digest (m := m)
      (s := { p.emitGroup m c.length with phase := 2#4 }) rfl rfl rfl rfl (by simp [hlen]) fun j hj => by
        simpa [hlen] using p.emitGroup_read c.length hj
    have hsteps : callSteps c = groupCount c + 1 + (1 + 130 * (paddedLength m.length / 64) + 1) := by
      simp only [callSteps, hr, Nat.add_assoc]
    have hcount : u.byteLen.toNat = m.length := by
      rw [hbyteLen, State.emitGroup_byteLen, show p.byteLen = 0#32 from rfl, BitVec.zero_add, BitVec.toNat_ofNat]
      omega
    refine ⟨u, hsteps ▸ run_trans hrun hrun', ?_⟩
    simp only [callResult, hr]
    exact ⟨hdone, herr, hhash, hcount, _, by rw [hashText, hr], fun j _ => hhex j⟩
  | error q =>
    rw [show encodeFrom p.ci c = .error q from hr] at ht
    obtain ⟨bs, k, hk, hq, rfl⟩ := ht
    have hpos : (p.emitGroup bs k).raiseMalformed.errPos.toNat = q := by
      rw [State.raiseMalformed, State.raiseError_errPos, State.emitGroup_ci, BitVec.toNat_ofNat, ← hq]
      have : p.ci = 0 := rfl
      omega
    have hsteps : callSteps c = groupCount c + 1 := by simp only [callSteps, hr]
    refine ⟨_, hsteps ▸ hrun, ?_⟩
    simp only [callResult, hr]
    exact ⟨rfl, rfl, hpos⟩

end Sys2Proof.Machine
end

section
/-! PROOFS. The interleavings of one call (rule R296, rule R297): the sequencer's step depends neither on the moves to
come nor on the responses given, and the host's reads add nothing but responses; so every interleaving ends as the
sequencer alone does. -/

namespace Sys2Proof.Machine

/-! ### The sequencer beside the host (rule R92) -/

theorem Except.map_bind_eq {α β γ : Type} (x : Except Fault α) (f : α → Except Fault β) (g : β → γ) :
    (x >>= f).map g = x >>= fun a => (f a).map g := by
  cases x <;> rfl

section
variable {s t : State} (ms : List Move) (rs : List Response)

theorem encodePair_withHost (s : State) (u : CodeUnit) :
    encodePair (s.withHost ms rs) u = (encodePair s u).map (State.withHost · ms rs) := by
  simp only [encodePair, apply_ite (Except.map (State.withHost · ms rs)), Except.map_bind_eq]
  rfl

theorem encodeStep_withHost (s : State) :
    encodeStep (s.withHost ms rs) = (encodeStep s).map (State.withHost · ms rs) := by
  simp only [encodeStep, apply_ite (Except.map (State.withHost · ms rs)), Except.map_bind_eq, encodePair_withHost]
  rfl

theorem State.storeScheduleWord_withHost (s : State) (x : Word) :
    (s.withHost ms rs).storeScheduleWord x = (s.storeScheduleWord x).withHost ms rs := by
  rw [State.storeScheduleWord_eq, State.storeScheduleWord_eq]
  rfl

theorem State.storeRound_withHost (s : State) (v : WorkVars) :
    (s.withHost ms rs).storeRound v = (s.storeRound v).withHost ms rs := by
  rw [State.storeRound_eq, State.storeRound_eq]
  rfl

/-- A micro-operation does the same whatever the moves to come and the responses given, and leaves both alone. -/
theorem exec_microOp_withHost {i : Instr} (hi : i.isCommand = false) (h : exec i s = .next t) :
    exec i (s.withHost ms rs) = .next (t.withHost ms rs) := by
  cases i with
  | start | push | run | rdword | rdchar | rdregStatus | rdregCuCount | rdregErrpos | rdregByteLen => cases hi
  | uEnc =>
    obtain ⟨hb, hp, henc⟩ := exec_uEnc_next h
    exact exec_uEnc_of_encodeStep (s := s.withHost ms rs) hb hp (by rw [encodeStep_withHost, henc, Except.map])
  | uPad =>
    obtain ⟨hb, hp, rfl⟩ := exec_uPad_next h
    exact exec_uPad_of_enabled (s := s.withHost ms rs) hb hp
  | uSched =>
    obtain ⟨hb, hp, hn, x, hx, rfl⟩ := exec_uSched_next h
    rw [← State.storeScheduleWord_withHost]
    exact exec_uSched_of_word (s := s.withHost ms rs) hb hp (Nat.one_le_iff_ne_zero.mpr hn) hx
  | uCopy =>
    obtain ⟨hb, hp, x, hx, rfl⟩ := exec_uCopy_next h
    exact exec_uCopy_of_hs (s := s.withHost ms rs) hb hp hx
  | uRound =>
    obtain ⟨hb, hp, v, x, hv, hx, rfl⟩ := exec_uRound_next h
    rw [← State.storeRound_withHost]
    exact exec_uRound_of_operands (s := s.withHost ms rs) hb hp hv hx
  | uFold =>
    obtain ⟨hb, hp, x, v, hx, hv, rfl⟩ := exec_uFold_next h
    exact exec_uFold_of_operands (s := s.withHost ms rs) hb hp hx hv
  | uFmt =>
    obtain ⟨hb, hp, x, hx, rfl⟩ := exec_uFmt_next h
    exact exec_uFmt_of_hs (s := s.withHost ms rs) hb hp hx

/-- PHASE selects a micro-operation, never a command. -/
theorem isCommand_of_decode_phase {p : BitVec 4} {i : Instr} (hd : decode (.phase p) = .ok i) :
    i.isCommand = false := by
  have he : encode i = .phase p := (decode_eq_ok_iff _ _).mp hd
  cases i with
  | start | push | run | rdword | rdchar | rdregStatus | rdregCuCount | rdregErrpos | rdregByteLen => cases he
  | uEnc | uPad | uSched | uCopy | uRound | uFold | uFmt => rfl

/-- A sequencer step that answers a state is the micro-operation that PHASE selects, in BUSY (rule R54). -/
theorem sequencerStep_next (h : sequencerStep s = .next t) :
    s.state = .busy ∧ ∃ i, i.isCommand = false ∧ decode (.phase s.phase) = .ok i ∧ exec i s = .next t := by
  have hb : s.state = .busy := by
    by_contra hb
    rw [sequencerStep_of_not_busy hb] at h
    cases h
  refine ⟨hb, ?_⟩
  cases hd : decode (.phase s.phase) with
  | ok i =>
    rw [sequencerStep_of_decode hb hd] at h
    exact ⟨i, isCommand_of_decode_phase hd, rfl, h⟩
  | error e => cases e <;> simp [sequencerStep, hb, hd] at h

theorem sequencerStep_withHost (h : sequencerStep s = .next t) :
    sequencerStep (s.withHost ms rs) = .next (t.withHost ms rs) := by
  obtain ⟨hb, i, hi, hd, hexec⟩ := sequencerStep_next h
  exact (sequencerStep_of_decode (s := s.withHost ms rs) hb hd).trans (exec_microOp_withHost ms rs hi hexec)

end

/-- No micro-operation sets ERR while it stays in BUSY (rule R48). -/
theorem exec_microOp_err {i : Instr} {s t : State} (hi : i.isCommand = false) (h : exec i s = .next t)
    (hb : t.state = .busy) : t.err = s.err := by
  cases i with
  | start | push | run | rdword | rdchar | rdregStatus | rdregCuCount | rdregErrpos | rdregByteLen => cases hi
  | uEnc =>
    obtain ⟨_, _, henc⟩ := exec_uEnc_next h
    rcases encodeStep_cases henc with ⟨_, rfl⟩ | ⟨bs, n, rfl, _⟩ | ⟨_, rfl⟩
    · rfl
    · rfl
    · cases hb
  | uPad =>
    obtain ⟨_, _, rfl⟩ := exec_uPad_next h
    exact padStep_err s
  | uSched =>
    obtain ⟨_, _, _, x, _, rfl⟩ := exec_uSched_next h
    simp
  | uCopy =>
    obtain ⟨_, _, x, _, rfl⟩ := exec_uCopy_next h
    rfl
  | uRound =>
    obtain ⟨_, _, v, x, _, _, rfl⟩ := exec_uRound_next h
    simp
  | uFold =>
    obtain ⟨_, _, x, v, _, _, rfl⟩ := exec_uFold_next h
    rfl
  | uFmt =>
    obtain ⟨_, _, x, _, rfl⟩ := exec_uFmt_next h
    rfl

/-- In a call ERR is NONE while STATE is BUSY, and the sequencer changes neither that nor CU_COUNT. -/
theorem sequencerStep_keeps {s t : State} (h : sequencerStep s = .next t) (he : s.err = .none) :
    (t.state = .busy → t.err = .none) ∧ t.cuCount = s.cuCount := by
  obtain ⟨_, i, hi, _, hexec⟩ := sequencerStep_next h
  refine ⟨fun hb => (exec_microOp_err hi hexec hb).trans he, ?_⟩
  obtain ⟨_, _, _, _, _, _, _, hcount, _⟩ := onlyTheNamedWritersWrite i s t hexec
  by_contra hne
  rcases hcount hne with rfl | ⟨u, rfl⟩ <;> cases hi

/-! ### Runs of both agents (rule R296) -/

/-- A run of at least one step begins with a step. -/
theorem run_succ_next {M : Host.Core} {s u : M.State} {n : Nat} (h : M.run (n + 1) s = .next u) :
    ∃ t, M.step s = .next t ∧ M.run n t = .next u := by
  rw [Host.Core.run] at h
  cases hs : M.step s with
  | next t => exact ⟨t, rfl, by rwa [hs] at h⟩
  | fault f => simp [hs] at h
  | refused r => simp [hs] at h

/-- What a call answers to a read (rule R297): CU_COUNT is the number of code units, and STATUS is that of BUSY or the
final one. -/
def AnsweredInCall (count final : Word) (m : Move) (r : Response) : Prop :=
  (m = .command 0x60000001#32 → r = ⟨.ok, count⟩) ∧
  (m = .command 0x60000000#32 → r = ⟨.ok, 0x00000002#32⟩ ∨ r = ⟨.ok, final⟩)

section
variable {s u : State} (ms : List Move) (rs : List Response)

/-- A sequencer step beside any host is the one it takes alone. -/
theorem step_sequencer {t : State} (h : sequencerStep (s.withHost [] []) = .next t) :
    step (s.withHost (.sequencer :: ms) rs) = .next (t.withHost ms rs) :=
  sequencerStep_withHost (s := s.withHost [] []) ms rs h

/-- Alone, the sequencer has no host to add a move or a response. -/
theorem withHost_of_sequencerStep_alone {t : State} (h : sequencerStep (s.withHost [] []) = .next t) :
    t.withHost [] [] = t := by
  have hstep : sequencerStep (s.withHost [] []) = .next (t.withHost [] []) :=
    sequencerStep_withHost (s := s.withHost [] []) [] [] h
  rw [h] at hstep
  injection hstep with ht
  exact ht.symm

/-- A read that rule R296 allows adds its answer to the responses, and changes nothing else. -/
theorem step_read {w : Word} (hw : (Move.command w).allowedInCall = true) :
    ∃ r, step (s.withHost (.command w :: ms) rs) = .next (s.withHost ms (rs ++ [r])) ∧
      (w = 0x60000001#32 → r = ⟨.ok, s.cuCount⟩) ∧ (w = 0x60000000#32 → r = ⟨.ok, s.status⟩) := by
  have hw : w = 0x60000000#32 ∨ w = 0x60000001#32 := by simpa [Move.allowedInCall] using hw
  rcases hw with rfl | rfl
  · exact ⟨_, step_command ms rs (decode_encode .rdregStatus), fun h => absurd h (by decide), fun _ => rfl⟩
  · exact ⟨_, step_command ms rs (decode_encode .rdregCuCount), fun _ => rfl, fun h => absurd h (by decide)⟩

/-- As long as the sequencer has a step to go STATUS is that of BUSY, and when it has none left it is the final one. -/
theorem status_of_run_alone {n : Nat} (he : s.state = .busy → s.err = .none)
    (h : Sys2Proof.core.run n (s.withHost [] []) = .next u) :
    s.status = 0x00000002#32 ∨ s.status = u.status := by
  cases n with
  | zero =>
    injection h with h
    exact .inr (h ▸ rfl)
  | succ n =>
    obtain ⟨t, hstep, _⟩ := run_succ_next h
    obtain ⟨hb, _⟩ := sequencerStep_next (s := s.withHost [] []) hstep
    have hb : s.state = .busy := hb
    left
    rw [State.status, hb, he hb]
    rfl

end

/-- Under every interleaving with reads the sequencer's steps end where they end alone, and each read is answered as
`AnsweredInCall` says (rule R297). -/
theorem run_during {s u : State} {during : List Move} (hall : during.all Move.allowedInCall = true)
    (he : s.state = .busy → s.err = .none)
    (hrun : Sys2Proof.core.run (during.count .sequencer) (s.withHost [] []) = .next u) (rs : List Response) :
    ∃ answers, Sys2Proof.core.run during.length (s.withHost during rs) = .next (u.withHost [] (rs ++ answers)) ∧
      List.Forall₂ (AnsweredInCall s.cuCount u.status) (during.filter (· ≠ .sequencer)) answers := by
  induction during generalizing s rs with
  | nil =>
    injection hrun with hu
    refine ⟨[], ?_, .nil⟩
    rw [List.append_nil, ← hu]
    rfl
  | cons m ms ih =>
    rw [List.all_cons, Bool.and_eq_true] at hall
    obtain ⟨hm, hall⟩ := hall
    cases m with
    | reset | poll => cases hm
    | sequencer =>
      rw [List.count_cons_self] at hrun
      obtain ⟨t, hstep, hrun⟩ := run_succ_next hrun
      have hb : s.state = .busy := (sequencerStep_next (s := s.withHost [] []) hstep).1
      obtain ⟨herr, hcount⟩ := sequencerStep_keeps (s := s.withHost [] []) hstep (he hb)
      rw [← withHost_of_sequencerStep_alone hstep] at hrun
      obtain ⟨answers, hrest, hans⟩ := ih hall herr hrun rs
      rw [hcount] at hans
      exact ⟨answers, (run_succ ms.length (step_sequencer ms rs hstep)).trans hrest, hans⟩
    | command w =>
      rw [List.count_cons_of_ne (by simp)] at hrun
      obtain ⟨r, hstep, hcount, hstatus⟩ := step_read (s := s) ms rs hm
      obtain ⟨answers, hrest, hans⟩ := ih hall he hrun (rs ++ [r])
      have hr : AnsweredInCall s.cuCount u.status (.command w) r := by
        refine ⟨fun hw => hcount (Move.command.inj hw), fun hw => ?_⟩
        rw [hstatus (Move.command.inj hw)]
        exact (status_of_run_alone he hrun).imp (congrArg (Response.mk .ok)) (congrArg (Response.mk .ok))
      refine ⟨r :: answers, ?_, by simpa using And.intro hr hans⟩
      rw [List.append_cons]
      exact (run_succ ms.length hstep).trans hrest

/-- A call of a text that fits ends in one state, but for the responses, under every interleaving, and each of its
answers is known. -/
theorem run_call {s : State} {c : List CodeUnit} (hcfg : s.cfg.Legal) (hb : s.state ≠ .busy)
    (hfit : c.length ≤ s.cfg.maxCu) :
    ∃ u, callResult c u ∧ ∀ during : List Move, during.all Move.allowedInCall = true →
      during.count .sequencer = callSteps c → ∀ rs, ∃ answers,
        Sys2Proof.core.run (c.length + 2 + during.length) (s.withHost (callMoves c ++ during) rs) =
          .next (u.withHost [] (rs ++ loadAnswers (c.length + 1) ++ [⟨.ok, 0x00000002#32⟩] ++ answers)) ∧
        List.Forall₂ (AnsweredInCall (BitVec.ofNat 32 c.length) u.status) (during.filter (· ≠ .sequencer)) answers := by
  obtain ⟨u, hrun, hu⟩ := run_callSteps s (hfit.trans hcfg.2)
  refine ⟨u, hu, fun during hall hcount rs => ?_⟩
  obtain ⟨answers, hduring, hans⟩ := run_during hall (fun _ => rfl) (hcount ▸ hrun)
    (rs ++ loadAnswers (c.length + 1) ++ [⟨.ok, 0x00000002#32⟩])
  have hlen : (s.called c).cuCount = BitVec.ofNat 32 c.length := BitVec.zero_add _
  exact ⟨answers, run_trans (run_callMoves hcfg hb hfit during rs) hduring, hlen ▸ hans⟩

/-! ### The statements about a call -/

/-- Settles O56: the host's part of the call, then the interleaving, which ends as the sequencer alone does
(`run_call`). -/
theorem hashCallMeetsTheContract : Obligations.HashCallMeetsTheContract := by
  intro s c during hcfg hb hfit hall hcount hm
  obtain ⟨u, hu, hcall⟩ := run_call hcfg hb hfit
  obtain ⟨answers, hrun, _⟩ := hcall during hall hcount s.responses
  rw [← hm] at hrun
  exact ⟨_, hrun, hu⟩

theorem length_filter_ne_sequencer (ms : List Move) :
    (ms.filter (· ≠ .sequencer)).length = ms.length - ms.count .sequencer := by
  rw [ms.length_eq_countP_add_countP (· == .sequencer), ← List.countP_eq_length_filter, List.count,
    Nat.add_sub_cancel_left]
  simp

/-- An element of the first list has its partner at the same index of the second. -/
theorem forall₂_getElem? {α β : Type} {R : α → β → Prop} {as : List α} {bs : List β} (h : List.Forall₂ R as bs)
    {j : Nat} {a : α} (ha : as[j]? = some a) : ∃ b, bs[j]? = some b ∧ R a b := by
  obtain ⟨hj, rfl⟩ := List.getElem?_eq_some_iff.mp ha
  have hj' : j < bs.length := h.length_eq ▸ hj
  exact ⟨_, List.getElem?_eq_getElem hj', h.get hj hj'⟩

/-- Settles O57: both calls end in the one state of `run_call`, and the answers are those of `AnsweredInCall`. -/
theorem interleavingsGiveOneResult : Obligations.InterleavingsGiveOneResult := by
  intro s c d1 d2 hcfg hb hfit hall1 hcount1 hall2 hcount2
  obtain ⟨u, _, hcall⟩ := run_call hcfg hb hfit
  obtain ⟨r1, hrun1, hans⟩ := hcall d1 hall1 hcount1 s.responses
  obtain ⟨_, hrun2, _⟩ := hcall d2 hall2 hcount2 s.responses
  refine ⟨_, _, r1, hrun1, hrun2, rfl, rfl, ?_, fun j => ⟨fun hj => ?_, fun hj => ?_⟩⟩
  · rw [← hans.length_eq, length_filter_ne_sequencer, hcount1]
  · obtain ⟨r, hr, hcu, _⟩ := forall₂_getElem? hans hj
    rw [hr, hcu rfl]
  · obtain ⟨r, hr, _, hstatus⟩ := forall₂_getElem? hans hj
    rw [hr]
    exact (hstatus rfl).imp (congrArg some) (congrArg some)

end Sys2Proof.Machine
end

section
/-! PROOFS. The error state (rule R351): in ERROR the sequencer has no step, and of the host's moves only START and reset
do more than give a response. -/

namespace Sys2Proof.Machine

section
variable {s t : State}

/-- In ERROR every command but START only gives a response: PUSH and RUN are rejected, the others are reads. -/
theorem exec_command_in_error (hs : s.state = .error) {i : Instr} (hi : i.isCommand = true) (hstart : i ≠ .start)
    (h : exec i s = .next t) : ∃ c d, t = s.respond c d := by
  cases i with
  | start => exact absurd rfl hstart
  | push | run =>
    rw [exec_of_rejected hi (by rw [hs]; rfl)] at h
    cases h
    exact ⟨_, _, rfl⟩
  | rdword | rdchar | rdregStatus | rdregCuCount | rdregErrpos | rdregByteLen => exact exec_read_next hi (by simp) h
  | uEnc | uPad | uSched | uCopy | uRound | uFold | uFmt => cases hi

/-- START's word is the only one that decodes to START; in ERROR any other word only gives a response. -/
theorem hostStep_in_error (hs : s.state = .error) {w : Word} (hw : w ≠ 0x10000000#32) (h : hostStep w s = .next t) :
    ∃ c d, t = s.respond c d := by
  cases hd : decode (.command w) with
  | ok i =>
    rw [hostStep_of_decode hd] at h
    refine exec_command_in_error hs (decodeCommand_isCommand hd) (fun hi => hw ?_) h
    subst hi
    exact (Code.command.inj ((decode_eq_ok_iff _ _).mp hd)).symm
  | error e =>
    rw [hostStep_of_illegal hd] at h
    cases h
    exact ⟨_, _, rfl⟩

end

/-- Settles O54: of the moves there are (`step_cases`), the sequencer's has no step in ERROR, a command word other than
START's and a POLL only give a response, and START and reset leave ERROR. -/
theorem errorIsLeftOnlyByStartOrReset : Obligations.ErrorIsLeftOnlyByStartOrReset := by
  intro s t hs h
  have hb : s.state ≠ .busy := by simp [hs]
  rcases step_cases s with ⟨_, hstep⟩ | ⟨rest, _, hstep⟩ | ⟨w, rest, hm, hstep⟩ | ⟨rest, hm, _⟩ | ⟨rest, hm, hstep⟩
  · cases h.symm.trans (hstep.trans (sequencerStep_of_not_busy hb))
  · cases h.symm.trans (hstep.trans (sequencerStep_of_not_busy (s := { s with moves := rest }) hb))
  · by_cases hw : w = 0x10000000#32
    · subst hw
      have hstart := exec_start_of_not_busy (s := { s with moves := rest }) hb
      cases h.symm.trans ((stepRunsTheDecodedCommand s _ rest _ hm decode_startWord).trans hstart)
      exact .inl ⟨rest, hm, rfl, rfl, rfl⟩
    · obtain ⟨c, d, rfl⟩ := hostStep_in_error (s := { s with moves := rest }) hs hw (hstep.symm.trans h)
      exact .inr (.inr ⟨hs, rfl, rfl⟩)
  · cases h.symm.trans (pollAsksUntilNotBusy s rest hm)
    exact .inr (.inr ⟨hs, rfl, rfl⟩)
  · cases h.symm.trans hstep
    exact .inr (.inl ⟨rest, hm, rfl, rfl, rfl⟩)

end Sys2Proof.Machine
end

section
/-! PROOFS. Reset, IDLE and BUSY (rule R380, rule R381, rule R386): outside LOAD, DONE and ERROR the host can do no more
than read STATUS and CU_COUNT, but for START in IDLE and for reset. -/

namespace Sys2Proof.Machine

/-! ### The commands that IDLE and BUSY accept (rule R294) -/

theorem start_or_read_of_accepted_idle {i : Instr} (hi : i.isCommand = true) (ha : accepted i .idle = true) :
    i = .start ∨ i = .rdregStatus ∨ i = .rdregCuCount := by
  cases i with
  | start | rdregStatus | rdregCuCount => simp
  | push | run | rdword | rdchar | rdregErrpos | rdregByteLen => cases ha
  | uEnc | uPad | uSched | uCopy | uRound | uFold | uFmt => cases hi

theorem read_of_accepted_busy {i : Instr} (hi : i.isCommand = true) (ha : accepted i .busy = true) :
    i = .rdregStatus ∨ i = .rdregCuCount := by
  cases i with
  | rdregStatus | rdregCuCount => simp
  | start | push | run | rdword | rdchar | rdregErrpos | rdregByteLen => cases ha
  | uEnc | uPad | uSched | uCopy | uRound | uFold | uFmt => cases hi

/-- Where STATE accepts a command only if it reads STATUS or CU_COUNT, the command only gives a response. -/
theorem exec_of_accepted_only_if_read {i : Instr} {s : State} (hi : i.isCommand = true)
    (ha : accepted i s.state = true → i = .rdregStatus ∨ i = .rdregCuCount) :
    ∃ c d, exec i s = .next (s.respond c d) := by
  cases hacc : accepted i s.state with
  | false => exact ⟨_, _, exec_of_rejected hi hacc⟩
  | true => rcases ha hacc with rfl | rfl <;> exact ⟨_, _, rfl⟩

/-- In BUSY a command word only gives a response, whether it is a command or not. -/
theorem hostStep_in_busy {s : State} (hb : s.state = .busy) (w : Word) :
    ∃ c d, hostStep w s = .next (s.respond c d) := by
  cases hd : decode (.command w) with
  | ok i =>
    rw [hostStep_of_decode hd]
    have hi := decodeCommand_isCommand hd
    exact exec_of_accepted_only_if_read hi fun ha => read_of_accepted_busy hi (hb ▸ ha)
  | error e => exact ⟨_, _, hostStep_of_illegal hd s⟩

/-! ### The statements about reset, IDLE and BUSY -/

theorem step_reset {s : State} {rest : List Move} (hm : s.moves = .reset :: rest) :
    step s = .next ({ s with moves := rest } : State).resetEvent := by
  rw [step, takeMove_cons hm, runMove]

/-- After reset a command that IDLE rejects answers with the STATUS word 0. -/
theorem exec_resetEvent_of_rejected (s : State) {i : Instr} (hi : i.isCommand = true) (ha : accepted i .idle = false) :
    exec i s.resetEvent = .next (s.resetEvent.respond .badState 0#32) := by
  have hstatus : s.resetEvent.status = 0#32 := by
    rw [State.status, State.resetEvent_state, State.resetEvent_err]
    rfl
  rw [exec_of_rejected (s := s.resetEvent) hi ha, State.respondStatus, hstatus]

/-- Settles O2: the step is the reset event, whose state is IDLE with STATUS 0, so that the reads of results are
rejected. -/
theorem resetEventAbandonsTheCall : Obligations.ResetEventAbandonsTheCall := by
  intro s rest hm
  exact ⟨_, step_reset hm, rfl, rfl, rfl, rfl, rfl, rfl, rfl, rfl, rfl, rfl, rfl, rfl, rfl, rfl,
    fun _ => ⟨rfl, rfl, rfl, rfl⟩, fun _ => exec_resetEvent_of_rejected _ rfl rfl,
    fun _ => exec_resetEvent_of_rejected _ rfl rfl, exec_resetEvent_of_rejected _ rfl rfl,
    exec_resetEvent_of_rejected _ rfl rfl⟩

/-- Settles O3: IDLE is not BUSY, and of the commands it accepts all but START are reads. -/
theorem onlyStartChangesAnIdleState : Obligations.OnlyStartChangesAnIdleState := by
  refine ⟨rfl, fun s hs => ⟨sequencerStep_of_not_busy (by simp [hs]), fun i hi hstart => ?_, fun u => ?_, ?_⟩⟩
  · obtain ⟨c, d, hexec⟩ := exec_of_accepted_only_if_read (s := s) hi fun ha =>
      (start_or_read_of_accepted_idle hi (hs ▸ ha)).resolve_left hstart
    exact ⟨⟨c, d⟩, hexec⟩
  · exact exec_of_rejected rfl (by rw [hs]; rfl)
  · exact exec_of_rejected rfl (by rw [hs]; rfl)

/-- Settles O53: BUSY accepts the two reads only, and neither a command word nor a POLL does more than give a response
and set the moves to come. -/
theorem busyCallIsUndisturbed : Obligations.BusyCallIsUndisturbed := by
  refine fun s hb => ⟨fun i hi hstatus hcount => exec_of_rejected hi ?_, fun t m rest hm hseq hreset h => ?_⟩
  · exact Bool.eq_false_of_not_eq_true fun ha =>
      (read_of_accepted_busy hi (hb ▸ ha)).elim hstatus hcount
  · cases m with
    | sequencer => exact absurd rfl hseq
    | reset => exact absurd rfl hreset
    | command w =>
      obtain ⟨c, d, hhost⟩ := hostStep_in_busy (s := { s with moves := rest }) hb w
      rw [step, takeMove_cons hm, runMove, hhost] at h
      cases h
      rfl
    | poll =>
      cases h.symm.trans (pollAsksUntilNotBusy s rest hm)
      rfl

end Sys2Proof.Machine
end

section
/-! PROOFS. A call whose host polls (rule R385, rule R390): every poll but the last finds the sequencer with a step to
go, so that polls and sequencer steps alternate until the sequencer has ended the call. -/

namespace Sys2Proof.Machine

/-! ### The turns of the POLL loop -/

section
variable {s : State} (ms : List Move) (rs : List Response)

theorem step_poll_of_busy (hb : s.state = .busy) :
    step (s.withHost (.poll :: ms) rs) =
      .next (s.withHost (.sequencer :: .poll :: ms) (rs ++ [⟨.ok, s.status⟩])) := by
  rw [pollAsksUntilNotBusy _ ms rfl, if_pos (show (s.withHost _ rs).state = .busy from hb)]
  rfl

theorem step_poll_of_not_busy (hb : s.state ≠ .busy) :
    step (s.withHost (.poll :: ms) rs) = .next (s.withHost ms (rs ++ [⟨.ok, s.status⟩])) := by
  rw [pollAsksUntilNotBusy _ ms rfl, if_neg (show (s.withHost _ rs).state ≠ .busy from hb)]
  rfl

end

/-- If the sequencer alone leaves BUSY in `n` steps, the POLL loop goes round once for each of them and once more, and
its last answer is the final STATUS. -/
theorem run_poll {n : Nat} {s u : State} (hrun : Sys2Proof.core.run n (s.withHost [] []) = .next u)
    (hu : u.state ≠ .busy) (ms : List Move) (rs : List Response) :
    ∃ answers, Sys2Proof.core.run (2 * n + 1) (s.withHost (.poll :: ms) rs) =
      .next (u.withHost ms (rs ++ answers ++ [⟨.ok, u.status⟩])) := by
  induction n generalizing s rs with
  | zero =>
    cases hrun
    refine ⟨[], ?_⟩
    rw [List.append_nil]
    exact run_one (step_poll_of_not_busy ms rs hu)
  | succ n ih =>
    obtain ⟨t, hstep, hrun⟩ := run_succ_next hrun
    have hb : s.state = .busy := (sequencerStep_next (s := s.withHost [] []) hstep).1
    rw [← withHost_of_sequencerStep_alone hstep] at hrun
    obtain ⟨answers, hrest⟩ := ih hrun (rs ++ [⟨.ok, s.status⟩])
    have hseq := step_sequencer (.poll :: ms) (rs ++ [⟨.ok, s.status⟩]) hstep
    refine ⟨⟨.ok, s.status⟩ :: answers, ?_⟩
    rw [List.append_cons rs]
    exact (run_succ (2 * n + 2) (step_poll_of_busy ms rs hb)).trans ((run_succ (2 * n + 1) hseq).trans hrest)

/-! ### The statement about a polled call -/

/-- A call that has its result is in DONE or in ERROR. -/
theorem callResult_state {c : List CodeUnit} {t : State} (h : callResult c t) : t.state = .done ∨ t.state = .error := by
  unfold callResult at h
  split at h
  · exact .inl h.1
  · exact .inr h.1

/-- Settles O58: the host's part of the call, then the POLL loop beside the steps that end the call (`run_poll`). -/
theorem polledCallEnds : Obligations.PolledCallEnds := by
  intro s c hcfg hb hfit hm
  obtain ⟨u, hrun, hu⟩ := run_callSteps s (hfit.trans hcfg.2)
  have hends := callResult_state hu
  have hnot : u.state ≠ .busy := by rcases hends with h | h <;> simp [h]
  obtain ⟨answers, hpoll⟩ := run_poll hrun hnot [] (s.responses ++ loadAnswers (c.length + 1) ++ [⟨.ok, 0x00000002#32⟩])
  have hcall := run_trans (run_callMoves hcfg hb hfit [.poll] s.responses) hpoll
  rw [← hm] at hcall
  exact ⟨_, hcall, rfl, hu, List.getLast?_concat, hends⟩

end Sys2Proof.Machine
end

section
/-! PROOFS. Words written out: the sample words of the encoding and the words of the opcode table's rows (rule R110 to
rule R120), and the compression of "abc" (vector V4). -/

namespace Sys2Proof.Machine

/-! ### Sample words (rule R115, rule R120) -/

theorem decodeCommand_of_reserved {w : Word} (h : rsvField w ≠ 0#12) : decodeCommand w = .error .reservedNonzero :=
  if_pos h

theorem decodeCommand_of_mbzSet {w : Word} (hr : rsvField w = 0#12) (h : MbzSet w) :
    decodeCommand w = .error .mbzNonzero := by
  obtain ⟨ho | ho, ha⟩ | ⟨ho, ha⟩ | ⟨ho, ha⟩ | ⟨ho, ha⟩ := h <;> simp [decodeCommand, hr, ho, ha]

/-- Settles O4: the legal words are the encodings of their instructions, and each ILLEGAL word fails its own check. -/
theorem sampleWordsDecode : Obligations.SampleWordsDecode :=
  ⟨decode_encode .start, decode_encode (.push 0xD83D#16), decode_encode .run, decode_encode (.rdword 5#3),
    decode_encode (.rdchar 42#6), decode_encode .rdregErrpos, decode_encode .uRound,
    decodeCommand_of_reserved (by decide), decodeCommand_of_mbzSet (by decide) (.inr (.inl ⟨by decide, by decide⟩)),
    decodeCommand_of_unassigned (by decide) (by decide)⟩

/-! ### The words of the opcode table's rows -/

theorem decodeTableWord_eq_some_iff {nbits w : Nat} {i : Instr} :
    decodeTableWord nbits w = some i ↔ ∃ c, tableCode nbits w = some c ∧ decode c = .ok i := by
  unfold decodeTableWord
  split
  · next h => simp [h]
  · next c h =>
    split
    · next j hd => simp [h, hd]
    · next e hd => simp [h, hd]

/-- A row of 32 bits is a command word. -/
theorem tableCode_of_command_width {nbits w : Nat} {c : Code} (hn : 32 ≤ nbits) (h : tableCode nbits w = some c) :
    c = .command (BitVec.ofNat 32 w) := by
  rw [tableCode, if_neg (by omega)] at h
  split at h
  · exact (Option.some.inj h).symm
  · cases h

theorem withFetchWord_of_command {nbits w : Nat} {x : Word} (h : tableCode nbits w = some (.command x)) (s : State) :
    s.withFetchWord nbits w = { s with moves := .command x :: s.moves } := by
  rw [State.withFetchWord, placeTableWord, h]
  rfl

/-- Settles O12: the row's word stands first among the moves to come, and the step takes it off again. -/
theorem placedCommandRunsNext : Obligations.PlacedCommandRunsNext := by
  intro s nbits w i hn hrow
  obtain ⟨c, hcode, hd⟩ := decodeTableWord_eq_some_iff.mp hrow
  obtain rfl := tableCode_of_command_width hn hcode
  rw [withFetchWord_of_command hcode]
  exact stepRunsTheDecodedCommand _ _ s.moves i rfl hd

/-! ### The compression of "abc" (vector V4) -/

theorem compressAll_of_oneBlock {m : List Byte} (h : m.length = 64) : compressAll m = compress iv m := by
  have hblock : blockAt m 0 = m := List.take_of_length_le h.le
  rw [compressAll, h, List.range_one, List.foldl_cons, List.foldl_nil, hblock]

/-- The schedule of the padded "abc", as vector V4 lists it. -/
def abcSchedule : List Word :=
  [0x61626380#32, 0x00000000#32, 0x00000000#32, 0x00000000#32, 0x00000000#32, 0x00000000#32, 0x00000000#32, 0x00000000#32] ++
  [0x00000000#32, 0x00000000#32, 0x00000000#32, 0x00000000#32, 0x00000000#32, 0x00000000#32, 0x00000000#32, 0x00000018#32] ++
  [0x61626380#32, 0x000f0000#32, 0x7da86405#32, 0x600003c6#32, 0x3e9d7b78#32, 0x0183fc00#32, 0x12dcbfdb#32, 0xe2e2c38e#32] ++
  [0xc8215c1a#32, 0xb73679a2#32, 0xe5bc3909#32, 0x32663c5b#32, 0x9d209d67#32, 0xec8726cb#32, 0x702138a4#32, 0xd3b7973b#32] ++
  [0x93f5997f#32, 0x3b68ba73#32, 0xaff4ffc1#32, 0xf10a5c62#32, 0x0a8b3996#32, 0x72af830a#32, 0x9409e33e#32, 0x24641522#32] ++
  [0x9f47bf94#32, 0xf0a64f5a#32, 0x3e246a79#32, 0x27333ba3#32, 0x0c4763f2#32, 0x840abf27#32, 0x7a290d5d#32, 0x065c43da#32] ++
  [0xfb3e89cb#32, 0xcc7617db#32, 0xb9e66c34#32, 0xa9993667#32, 0x84badedd#32, 0xc21462bc#32, 0x1487472c#32, 0xb20f7a99#32] ++
  [0xef57b9cd#32, 0xebe6b238#32, 0x9fe3095e#32, 0x78bc8d4b#32, 0xa43fcf15#32, 0x668b2ff8#32, 0xeeaba2cc#32, 0x12b1edeb#32]

/-- The working variables after round 63 on the padded "abc", as vector V4 lists them. -/
def abcVars : WorkVars where
  a := 0x506e3058#32
  b := 0xd39a2165#32
  c := 0x04d24d6c#32
  d := 0xb85e2ce9#32
  e := 0x5ef50f24#32
  f := 0xfb121210#32
  g := 0x948d25b6#32
  h := 0x961f4894#32

theorem schedule_abc : schedule (pad [0x61#8, 0x62#8, 0x63#8]) = abcSchedule := by decide +kernel

theorem rounds_abc : rounds abcSchedule iv.toVars = abcVars := by decide +kernel

/-- Settles O42: the padded text is one block, and its schedule and its rounds give the values that the vector lists on
the way to the digest. -/
theorem abcCompressesToItsDigest : Obligations.AbcCompressesToItsDigest := by
  have hone : (pad [0x61#8, 0x62#8, 0x63#8]).length = 64 := pad_length _
  have hfold : compressAll (pad [0x61#8, 0x62#8, 0x63#8]) = iv.fold abcVars := by
    rw [compressAll_of_oneBlock hone, compress, schedule_abc, rounds_abc]
  exact hfold.trans (by decide)

end Sys2Proof.Machine
end
